-- ==== Sys2Proof/Word.lean ====
section
/-! DEFINITION. The word types of the block (00_scope.md R5: unsigned bit vectors, bit 0 least significant). -/

namespace Sys2Proof

/-- One byte of a frame, one cell of PBUF, one symbol of the event port (R4 `SYM_W`). -/
abbrev Byte := BitVec 8

/-- Half a byte: the value of one hexadecimal digit (R24, R75). -/
abbrev Nibble := BitVec 4

/-- The 28-bit event word of the listing form (R83). -/
abbrev EventWord := BitVec 28

end Sys2Proof
end

