-- ==== Sys2Proof/Config.lean ====
section
/-! DEFINITION. The parameters of 00_scope.md R4 with the values it fixes, and the one free value of the block. -/

namespace Sys2Proof.Config

/-- `START_DELIM` (R4, R86): the required value of frame byte 0. -/
@[simp] abbrev startDelim : Byte := 0x7E#8

/-- `CHK_TARGET` (R4, R86): the low byte of payload sum plus checksum in an intact frame. -/
@[simp] abbrev chkTarget : Byte := 0xFF#8

/-- `MIN_FRAME_BYTES` (R4, R71). It is also the number of frame bytes outside the payload: delimiter, length, checksum. -/
@[simp] abbrev minFrameBytes : Nat := 4

/-- `BIDX_MAX` (R4, R25): the value at which the byte counter saturates. -/
@[simp] abbrev bidxMax : Nat := 131071

/-- `PBUF_SIZE` (R4, R51). -/
@[simp] abbrev pbufSize : Nat := 65536

/-- The frame index of the first byte stored in PBUF (R52): the payload begins at frame byte 3. -/
@[simp] abbrev payloadStart : Nat := 3

/-- `ENFORCE_DELIM` (R4, D9). -/
@[simp] abbrev enforceDelim : Bool := true

/-- `ENFORCE_LENGTH` (R4, D10). -/
@[simp] abbrev enforceLength : Bool := true

/-- FREE VALUE (93 I1, R51, R213; DESIGN CHOICE, log 4): the byte a PBUF cell holds since power-up while no DECODE has written
it. One fixed draw per address. It has no body, so nothing can be proved of its value. -/
opaque pbufPowerUp : Nat → Byte

end Sys2Proof.Config
end

