-- ==== Sys2Proof/Syntax.lean ====
section
/-! DEFINITION. The rows of spec/opcode_table.json as one inductive, and the forms in which a host presents them. -/

namespace Sys2Proof

/-- The operations a START opens (R81). -/
inductive Operation where
  | decode
  | sumBytes
  | deriveChk
  | verify
  deriving DecidableEq, Repr

/-- One constructor per row of the opcode table, in the table's order and under its four formats. -/
inductive Instr where
  -- EVW: the events (R80, R81). A START carries all 16 bits of `arg`, which R162 latches for every operation (log 10).
  | nop
  | decode (arg : BitVec 16)
  | sumbytes (arg : BitVec 16)
  | derivechk (arg : BitVec 16)
  | verify (arg : BitVec 16)
  | sym (c : Byte)
  | endTx
  -- FRAME: a whole frame, as its bytes (R70 to R72; log 8)
  | frame (bytes : List Byte)
  -- CHAR: one character of the text DECODE parses (R74, R75; log 7)
  | char0
  | char1
  | char2
  | char3
  | char4
  | char5
  | char6
  | char7
  | char8
  | char9
  | charA
  | charB
  | charC
  | charD
  | charE
  | charF
  | charLowerA
  | charLowerB
  | charLowerC
  | charLowerD
  | charLowerE
  | charLowerF
  | charLf
  | charCr
  | charOther (c : Byte)
  -- PSEUDO: the pseudo-operations (R88; log 9)
  | genchk (bytes : List Byte)
  | decodeln (text : List Byte)
  | check (text : List Byte)
  deriving DecidableEq, Repr

/-- The inputs sampled at one clock edge (R160, R219). `pb_addr` is read combinationally and belongs to the read port (log 12). -/
structure Ports where
  rst : Bool
  ev : BitVec 2
  op : BitVec 2
  arg : BitVec 16
  sym : Byte
  deriving DecidableEq, Repr

/-- What the host presents at one step of the model, one form per format of the opcode table: the raw ports of one clock edge,
or one of the listing's own items (a character, a frame, a pseudo-operation) that stands for the events it names (logs 1, 7, 8, 9). -/
inductive HostInput where
  | edge (p : Ports)
  | char (c : Byte)
  | frame (bytes : List Byte)
  | genchk (bytes : List Byte)
  | decodeln (text : List Byte)
  | check (text : List Byte)
  deriving DecidableEq, Repr

end Sys2Proof
end

