-- ==== Sys2Proof/Machine/Operands.lean ====
section
/-! DEFINITION. Operand forms: character classes and digit values, byte assembly, text rendering, the fixed frame layout and the
PBUF address of a frame byte. Functions of values alone, none of the state. -/

namespace Sys2Proof.Machine

/-- The code of an operation on the `op` input and the `op_q` output (R81). -/
def opCode : Operation → BitVec 2
  | .decode => 0
  | .sumBytes => 1
  | .deriveChk => 2
  | .verify => 3

/-- The character classes of R74. -/
inductive CharClass where
  | hex
  | term
  | other
  deriving DecidableEq, Repr

/-- The class of a symbol value (R74). -/
def classify (c : Byte) : CharClass :=
  if 0x30 ≤ c.toNat ∧ c.toNat ≤ 0x39 then .hex
  else if 0x41 ≤ c.toNat ∧ c.toNat ≤ 0x46 then .hex
  else if 0x61 ≤ c.toNat ∧ c.toNat ≤ 0x66 then .hex
  else if c.toNat = 0x0A ∨ c.toNat = 0x0D then .term
  else .other

/-- The digit value of a symbol; 0 outside class HEX (R75). -/
def nibble (c : Byte) : Nibble :=
  if 0x30 ≤ c.toNat ∧ c.toNat ≤ 0x39 then BitVec.ofNat 4 (c.toNat - 0x30)
  else if 0x41 ≤ c.toNat ∧ c.toNat ≤ 0x46 then BitVec.ofNat 4 (c.toNat - 0x37)
  else if 0x61 ≤ c.toNat ∧ c.toNat ≤ 0x66 then BitVec.ofNat 4 (c.toNat - 0x57)
  else 0

/-- Byte assembly (R56, R76): the first digit is the high one. -/
def assembleByte (hi lo : Nibble) : Byte := hi ++ lo

/-- The upper-case character code of a digit value (R78). -/
def digit (d : Nibble) : Byte :=
  if d.toNat ≤ 9 then BitVec.ofNat 8 (0x30 + d.toNat) else BitVec.ofNat 8 (0x37 + d.toNat)

/-- `hex2` as a text of two characters (R78). -/
def hexText (v : Byte) : List Byte := [digit (v.extractLsb' 4 4), digit (v.extractLsb' 0 4)]

/-- `hex2` as a 16-bit port value (R37, R78). -/
def hex2 (v : Byte) : BitVec 16 := digit (v.extractLsb' 4 4) ++ digit (v.extractLsb' 0 4)

/-- `val`: the value of a two-character token (R79). -/
def tokenValue (c0 c1 : Byte) : Byte := assembleByte (nibble c0) (nibble c1)

/-- The text of a frame: two upper-case characters per byte, no separators (R73). -/
def frameText (bytes : List Byte) : List Byte := bytes.flatMap hexText

/-- Replace byte `k` of a register, counted from its least significant byte (the slice writes of R112). -/
def setByte {w : Nat} (v : BitVec w) (k : Nat) (b : Byte) : BitVec w :=
  (v &&& ~~~((0xFF#8).setWidth w <<< (8 * k))) ||| (b.setWidth w <<< (8 * k))

/-- A byte arriving at frame index `i` goes into a multi-byte field that occupies frame bytes `lo` to `hi`, the lower index in
the more significant place (R55, R112). -/
def placeByte {w : Nat} (lo hi i : Nat) (v : BitVec w) (b : Byte) : BitVec w :=
  if lo ≤ i ∧ i ≤ hi then setByte v (hi - i) b else v

/-- The byte counter after one more byte (R25, R112): it saturates and never wraps. -/
def nextIndex (i : BitVec 17) : BitVec 17 := BitVec.ofNat 17 (min (i.toNat + 1) Config.bidxMax)

/-- The PBUF address of the byte with frame index `i`, if it is stored at all (R52). -/
def pbufTarget (i : Nat) : Option Nat :=
  if 3 ≤ i ∧ i ≤ 65538 then some (i - Config.payloadStart) else none

/-- The low byte of a START argument (R82): VERIFY's asserted checksum, DERIVECHK's `added` inside its domain. -/
def argByte (arg : BitVec 16) : Byte := arg.extractLsb' 0 8

/-- The generator's arithmetic (R131): `0xFF - x` for an 8-bit `x`. -/
def complement (x : Byte) : Byte := 0xFF#8 - x

/-- The 9-bit two's complement negation of R35. -/
def negate9 (r : Byte) : BitVec 9 := BitVec.ofNat 9 ((512 - r.toNat) % 512)

end Sys2Proof.Machine
end

