-- ==== Sys2Proof/WellFormed.lean ====
section
/-! DEFINITION. Which instructions are ones the opcode table can write. Every event word is well formed (R84); the checks concern
the two rows whose operands the table restricts: FRAME (R70 to R72) and CHAR_OTHER (R74). -/

namespace Sys2Proof

/-- The layout conditions on the bytes of a frame (R70, R71, R104, R105): at least 4 bytes, the delimiter, and a length field
equal to the payload's byte count. The greatest frame, 65539 bytes, follows from the 16-bit length field. -/
def frameShape (bytes : List Byte) : Bool :=
  decide (Config.minFrameBytes ≤ bytes.length) &&
  decide (bytes.getD 0 0 = Config.startDelim) &&
  decide (256 * (bytes.getD 1 0).toNat + (bytes.getD 2 0).toNat + Config.minFrameBytes = bytes.length)

/-- An instruction the table can write. -/
def Instr.WellFormed : Instr → Bool
  | .nop => true
  | .decode _ => true
  | .sumbytes _ => true
  | .derivechk _ => true
  | .verify _ => true
  | .sym _ => true
  | .endTx => true
  | .frame bytes => frameShape bytes
  | .char0 => true
  | .char1 => true
  | .char2 => true
  | .char3 => true
  | .char4 => true
  | .char5 => true
  | .char6 => true
  | .char7 => true
  | .char8 => true
  | .char9 => true
  | .charA => true
  | .charB => true
  | .charC => true
  | .charD => true
  | .charE => true
  | .charF => true
  | .charLowerA => true
  | .charLowerB => true
  | .charLowerC => true
  | .charLowerD => true
  | .charLowerE => true
  | .charLowerF => true
  | .charLf => true
  | .charCr => true
  | .charOther c => decide (Machine.classify c = .other)
  | .genchk _ => true
  | .decodeln _ => true
  | .check _ => true

end Sys2Proof
end

