-- ==== Sys2Proof/Decode.lean ====
section
/-! DEFINITION. The decoder (event words, characters, the host's items; the opcode table's words) and, after it, the encoder. -/

namespace Sys2Proof

/-- The four inputs of an edge packed in the order of the event word (R83). -/
def portsWord (p : Ports) : EventWord := p.ev ++ p.op ++ p.arg ++ p.sym

/-- The inputs that an event word denotes (R83), with `rst = 0`. -/
def portsOfWord (w : EventWord) : Ports :=
  { rst := false, ev := w.extractLsb' 26 2, op := w.extractLsb' 24 2, arg := w.extractLsb' 8 16, sym := w.extractLsb' 0 8 }

/-- The START of an operation code (R81). All four codes are defined. -/
def decodeStart (op : BitVec 2) (arg : BitVec 16) : Instr :=
  if op = 0 then .decode arg
  else if op = 1 then .sumbytes arg
  else if op = 2 then .derivechk arg
  else .verify arg

/-- The event of an event word: `ev` first, then `op` for START; bits the event does not read are dropped (R80, R83, R84). -/
def decodeEvent (w : EventWord) : Instr :=
  if w.extractLsb' 26 2 = 0 then .nop
  else if w.extractLsb' 26 2 = 1 then decodeStart (w.extractLsb' 24 2) (w.extractLsb' 8 16)
  else if w.extractLsb' 26 2 = 2 then .sym (w.extractLsb' 0 8)
  else .endTx

/-- The 24 CHAR rows with a code of their own, as the table lists them (R74, R75). -/
def charRows : List (Byte × Instr) :=
  [(0x30, .char0), (0x31, .char1), (0x32, .char2), (0x33, .char3), (0x34, .char4), (0x35, .char5), (0x36, .char6),
   (0x37, .char7), (0x38, .char8), (0x39, .char9)] ++
  [(0x41, .charA), (0x42, .charB), (0x43, .charC), (0x44, .charD), (0x45, .charE), (0x46, .charF)] ++
  [(0x61, .charLowerA), (0x62, .charLowerB), (0x63, .charLowerC), (0x64, .charLowerD), (0x65, .charLowerE),
   (0x66, .charLowerF)] ++
  [(0x0A, .charLf), (0x0D, .charCr)]

/-- The CHAR row of a symbol: its own row, or the default row CHAR_OTHER. -/
def decodeChar (c : Byte) : Instr := (charRows.lookup c).getD (.charOther c)

/-- The decoder: total, one instruction for whatever the host presents (R84: nothing is illegal). Reset is no row of the table
and is told apart by `isReset` before this function is asked. -/
def decodeInput : HostInput → Instr
  | .edge p => decodeEvent (portsWord p)
  | .char c => decodeChar c
  | .frame bytes => .frame bytes
  | .genchk bytes => .genchk bytes
  | .decodeln text => .decodeln text
  | .check text => .check text

/-- Whether the step is the reset step (R160, R210): `rst = 1`, and the event inputs are ignored. -/
def isReset : HostInput → Bool
  | .edge p => p.rst
  | _ => false

/-- What a port that the host leaves alone shows: a NOP (DESIGN CHOICE, log 2). -/
def idlePorts : Ports := { rst := false, ev := 0, op := 0, arg := 0, sym := 0 }

/-- Why a number is no word of the opcode table. -/
inductive WordError where
  /-- No row has a word of this many bits. -/
  | noSuchWidth
  /-- A bit is set above the word's most significant bit. -/
  | bitsAboveWord
  deriving DecidableEq, Repr

/-- The item that a word of the opcode table denotes (DESIGN CHOICE, log 11). 28 bits, in whole bytes 32: an event word. 8 bits:
the FRAME row where its match `0x7E` holds, continued by zero bytes to the least frame, else a character. 16 bits: a character in
the low byte (the reader of the table lists a digit's value as a bit above it). The PSEUDO rows have no word (R88). -/
def tableItem (nbits w : Nat) : Except WordError HostInput :=
  if nbits = 32 ∨ nbits = 28 then
    if w < 2 ^ 28 then .ok (.edge (portsOfWord (BitVec.ofNat 28 w))) else .error .bitsAboveWord
  else if nbits = 8 then
    if w < 2 ^ 8 then
      if w = 0x7E then .ok (.frame [0x7E, 0, 0, 0]) else .ok (.char (BitVec.ofNat 8 w))
    else .error .bitsAboveWord
  else if nbits = 16 then
    if w < 2 ^ 16 then .ok (.char (BitVec.ofNat 8 w)) else .error .bitsAboveWord
  else .error .noSuchWidth

/-- The instruction the decoder reads from a word of the opcode table. -/
def decodeTableWord (nbits w : Nat) : Option Instr :=
  match tableItem nbits w with
  | .ok item => some (decodeInput item)
  | .error _ => none

/-! The encoder, from R80 to R83 and the table's rows. -/

def nopWord : EventWord := 0x0000000#28

def endWord : EventWord := 0xC000000#28

/-- The word of a START: `ev = 1`, the operation's code, `arg`, and a zero symbol (R83). -/
def startWord (op : Operation) (arg : BitVec 16) : EventWord := 1#2 ++ Machine.opCode op ++ arg ++ 0#8

/-- The word of a SYM: `0x8000000 + s` (R83). -/
def symWord (c : Byte) : EventWord := 2#2 ++ 0#2 ++ 0#16 ++ c

/-- A transaction as its event words: START, one SYM a symbol, END (R87, R168). -/
def transactionWords (op : Operation) (arg : BitVec 16) (syms : List Byte) : List EventWord :=
  startWord op arg :: (syms.map symWord ++ [endWord])

/-- The event words an instruction stands for: one word for an event or a character, the expansion of R73, R87 and R88 for a frame
and for a pseudo-operation. DERIVECHK's argument in GENCHK is the sum that the SUMBYTES before it leaves (R141). -/
def eventWords : Instr → List EventWord
  | .nop => [nopWord]
  | .decode arg => [startWord .decode arg]
  | .sumbytes arg => [startWord .sumBytes arg]
  | .derivechk arg => [startWord .deriveChk arg]
  | .verify arg => [startWord .verify arg]
  | .sym c => [symWord c]
  | .endTx => [endWord]
  | .frame bytes => transactionWords .decode 0 (Machine.frameText bytes)
  | .char0 => [symWord 0x30]
  | .char1 => [symWord 0x31]
  | .char2 => [symWord 0x32]
  | .char3 => [symWord 0x33]
  | .char4 => [symWord 0x34]
  | .char5 => [symWord 0x35]
  | .char6 => [symWord 0x36]
  | .char7 => [symWord 0x37]
  | .char8 => [symWord 0x38]
  | .char9 => [symWord 0x39]
  | .charA => [symWord 0x41]
  | .charB => [symWord 0x42]
  | .charC => [symWord 0x43]
  | .charD => [symWord 0x44]
  | .charE => [symWord 0x45]
  | .charF => [symWord 0x46]
  | .charLowerA => [symWord 0x61]
  | .charLowerB => [symWord 0x62]
  | .charLowerC => [symWord 0x63]
  | .charLowerD => [symWord 0x64]
  | .charLowerE => [symWord 0x65]
  | .charLowerF => [symWord 0x66]
  | .charLf => [symWord 0x0A]
  | .charCr => [symWord 0x0D]
  | .charOther c => [symWord c]
  | .genchk bytes =>
    transactionWords .sumBytes 0 bytes ++
      transactionWords .deriveChk ((bytes.foldl (· + ·) 0#8).setWidth 16) []
  | .decodeln text => transactionWords .decode 0 (text ++ [0x0A])
  | .check text => transactionWords .decode 0 text

/-- The item in the instruction's own format of the table: the canonical event word of an event, the code of a character, the bytes
of a frame, the operands of a pseudo-operation. -/
def encode : Instr → HostInput
  | .nop => .edge (portsOfWord nopWord)
  | .decode arg => .edge (portsOfWord (startWord .decode arg))
  | .sumbytes arg => .edge (portsOfWord (startWord .sumBytes arg))
  | .derivechk arg => .edge (portsOfWord (startWord .deriveChk arg))
  | .verify arg => .edge (portsOfWord (startWord .verify arg))
  | .sym c => .edge (portsOfWord (symWord c))
  | .endTx => .edge (portsOfWord endWord)
  | .frame bytes => .frame bytes
  | .char0 => .char 0x30
  | .char1 => .char 0x31
  | .char2 => .char 0x32
  | .char3 => .char 0x33
  | .char4 => .char 0x34
  | .char5 => .char 0x35
  | .char6 => .char 0x36
  | .char7 => .char 0x37
  | .char8 => .char 0x38
  | .char9 => .char 0x39
  | .charA => .char 0x41
  | .charB => .char 0x42
  | .charC => .char 0x43
  | .charD => .char 0x44
  | .charE => .char 0x45
  | .charF => .char 0x46
  | .charLowerA => .char 0x61
  | .charLowerB => .char 0x62
  | .charLowerC => .char 0x63
  | .charLowerD => .char 0x64
  | .charLowerE => .char 0x65
  | .charLowerF => .char 0x66
  | .charLf => .char 0x0A
  | .charCr => .char 0x0D
  | .charOther c => .char c
  | .genchk bytes => .genchk bytes
  | .decodeln text => .decodeln text
  | .check text => .check text

end Sys2Proof
end

