-- ==== Sys2Proof/Machine/State.lean ====
section
/-! DEFINITION. The state of one instance (10_state.md R21), the codes of its status registers, and reset (R41). -/

namespace Sys2Proof.Machine

/-- `phase` (R22): `0` is IDLE, `1` is RUN. -/
inductive Phase where
  | idle
  | run
  deriving DecidableEq, Repr

/-- PBUF: the cells written since power-up, by rising address (R51, R213; logs 4, 5). -/
abbrev Memory := List Host.Cell

/-- The state. Registers in the order of 10_state.md; their ports in 70_reset_and_hazards.md R219. -/
structure State where
  -- working state (R22 to R27)
  phase : Phase
  opQ : Operation
  argQ : BitVec 16
  nib : Bool
  hi : Nibble
  bidx : BitVec 17
  tseen : Bool
  nonhex : Bool
  acc : Byte
  -- the Frame record (R28 to R30)
  startDelimiter : Byte
  length : BitVec 16
  frameType : Byte
  frameId : Byte
  destinationAddress64 : BitVec 64
  destinationAddress16 : BitVec 16
  atCommand : BitVec 16
  status : Byte
  response : Byte
  checksum : Byte
  fvalid : BitVec 7
  payloadCount : BitVec 16
  -- ChecksumResult and the generator output (R31, R32)
  verdict : Bool
  sum : Byte
  sumPayload : Byte
  checksumCalc : Byte
  -- the result code (R33)
  rc : BitVec 2
  cause : BitVec 3
  done : Bool
  -- the payload buffer (R51)
  pbuf : Memory
  -- the model's own: what the host presents at the coming steps (log 1), and the readings it has taken (log 13)
  input : List HostInput
  readings : List (BitVec 9)
  deriving DecidableEq, Repr

/-- The state right after reset (R41, R210). PBUF lists no cell: none has been written since power-up (log 4). -/
def State.reset : State where
  phase := .idle
  opQ := .decode
  argQ := 0
  nib := false
  hi := 0
  bidx := 0
  tseen := false
  nonhex := false
  acc := 0
  startDelimiter := 0
  length := 0
  frameType := 0
  frameId := 0
  destinationAddress64 := 0
  destinationAddress16 := 0
  atCommand := 0
  status := 0
  response := 0
  checksum := 0
  fvalid := 0
  payloadCount := 0
  verdict := false
  sum := 0
  sumPayload := 0
  checksumCalc := 0
  rc := 0
  cause := 0
  done := false
  pbuf := []
  input := []
  readings := []

/-- The causes an error is published with (R182, R183). -/
inductive Cause where
  | nonhex
  | odd
  | short
  | delim
  | length
  | domain
  deriving DecidableEq, Repr

/-- Why the machine stops with a fault. -/
inductive Fault where
  /-- Raised by nobody, hence safe: no step faults (R160), and the interface wants a type of faults. -/
  | none
  deriving DecidableEq, Repr

/-- Why an instruction has no meaning. -/
inductive Refusal where
  /-- Raised by an arm of `exec` whose instruction has no meaning yet. Safe: the machine stops where the hardware goes on. No arm
  raises it now. -/
  | notModelled (mnemonic : String)
  deriving DecidableEq, Repr

/-- The outcome of an instruction or a step. -/
abbrev Result := Host.Outcome State Fault Refusal

end Sys2Proof.Machine
end

