-- ==== Sys2Proof/Machine/Flags.lean ====
section
/-! DEFINITION. Flag and code computations: `fvalid`, `nonhex`, the verdict, result and cause codes, and the order of the checks at
an END of DECODE. -/

namespace Sys2Proof.Machine

/-- The value of `cause` (R33, R182, R183). -/
def causeCode : Cause → BitVec 3
  | .nonhex => 1
  | .odd => 2
  | .short => 3
  | .delim => 4
  | .length => 5
  | .domain => 6

/-- The value of `rc` that a cause is published with (R181): MALFORMED or ARITH_DOMAIN. -/
def errorCode : Cause → BitVec 2
  | .nonhex => 1
  | .odd => 1
  | .short => 1
  | .delim => 1
  | .length => 1
  | .domain => 2

/-- The valid bits after the byte of frame index `i` (R29, R112): a bit is set by the last byte of its field. -/
def fvalidAfter (i : Nat) (v : BitVec 7) : BitVec 7 :=
  if i = 3 then v ||| 0b0000001#7
  else if i = 4 then v ||| 0b0000010#7
  else if i = 12 then v ||| 0b0000100#7
  else if i = 14 then v ||| 0b0001000#7
  else if i = 16 then v ||| 0b0010000#7
  else if i = 17 then v ||| 0b0100000#7
  else if i = 18 then v ||| 0b1000000#7
  else v

/-- `nonhex` after a character of class `cls` that is no terminator (R26, R110): sticky. -/
def nonhexAfter (cls : CharClass) (tseen nonhex : Bool) : Bool := nonhex || tseen || decide (cls = .other)

/-- The verdict of a sum that includes the asserted checksum (R31, R132). -/
def verdictOf (sum : Byte) : Bool := decide (sum = Config.chkTarget)

/-- A field whose valid bit is 0 reads as zero (R29, R114). -/
def validOrZero {w : Nat} (fvalid : BitVec 7) (k : Nat) (v : BitVec w) : BitVec w := if fvalid.getLsbD k then v else 0

/-- The checks at an END of DECODE, in the order of R113: the first that holds is the cause (R185). The LENGTH check compares
integers; it is reached with `bidx` at least 4 only, so `length + 4` against `bidx` is `length` against `bidx - 4`. -/
def malformedCause (s : State) : Option Cause :=
  if s.nonhex then some .nonhex
  else if s.nib then some .odd
  else if s.bidx.toNat < Config.minFrameBytes then some .short
  else if Config.enforceDelim ∧ s.startDelimiter ≠ Config.startDelim then some .delim
  else if Config.enforceLength ∧ s.length.toNat + Config.minFrameBytes ≠ s.bidx.toNat then some .length
  else none

end Sys2Proof.Machine
end

