-- ==== Sys2Proof/Machine/Ops.lean ====
section
/-! DEFINITION. The named operations over PBUF and the registers: the host's next input, reset, START, SYM, END, and the one
publication of errors. Every register write of an event reads the values from before it (R6). -/

namespace Sys2Proof.Machine

/-! PBUF as data (R51 to R53). -/

/-- The byte that a DECODE has stored at an address since power-up, if any has (R51, R53). -/
def readCell : Memory → Nat → Option Byte
  | [], _ => none
  | (k, v) :: rest, a => if a < k then none else if a = k then some v else readCell rest a

/-- Store one byte (R52), keeping the addresses rising. -/
def writeCell : Memory → Nat → Byte → Memory
  | [], a, b => [(a, b)]
  | (k, v) :: rest, a, b =>
    if a < k then (a, b) :: (k, v) :: rest
    else if a = k then (a, b) :: rest
    else (k, v) :: writeCell rest a b

/-- All addresses from a bound on, strictly rising and inside PBUF. -/
def memoryFrom (lo : Nat) : Memory → Bool
  | [] => true
  | (k, _) :: rest => decide (lo ≤ k) && decide (k < Config.pbufSize) && memoryFrom (k + 1) rest

/-- The canonical form of PBUF: strictly rising addresses below `PBUF_SIZE`. No entry equals what an unlisted address holds, since
an unlisted address holds no byte that a DECODE wrote (log 5). -/
def memoryWf (m : Memory) : Bool := memoryFrom 0 m

/-- The store of the byte with frame index `i` (R52): dropped outside 3 to 65538. -/
def storeByte (i : Nat) (b : Byte) (m : Memory) : Memory :=
  match pbufTarget i with
  | some a => writeCell m a b
  | none => m

/-! The host's side of a step. -/

/-- What the host presents at this step, and the state in which the step finds the block (logs 1, 2). -/
def nextInput (s : State) : HostInput × State :=
  match s.input with
  | [] => (.edge idlePorts, s)
  | item :: rest => (item, { s with input := rest })

/-- The reset step (R210): every register at its reset value, PBUF as it was. The host's own lists are no registers of the block. -/
def resetStep (s : State) : State := { State.reset with pbuf := s.pbuf, input := s.input, readings := s.readings }

/-! Clearing and the phase. -/

/-- The working registers `nib`, `hi`, `bidx`, `tseen`, `nonhex`, `acc` cleared (R162). -/
def clearWorking (s : State) : State :=
  { s with nib := false, hi := 0, bidx := 0, tseen := false, nonhex := false, acc := 0 }

/-- The result registers of R28 to R32 cleared (R162, R186). -/
def clearResults (s : State) : State :=
  { s with
    startDelimiter := 0, length := 0, frameType := 0, frameId := 0, destinationAddress64 := 0,
    destinationAddress16 := 0, atCommand := 0, status := 0, response := 0, checksum := 0, fvalid := 0,
    payloadCount := 0, verdict := false, sum := 0, sumPayload := 0, checksumCalc := 0 }

/-- START in either phase (R162, R163). An open transaction is abandoned without a result. -/
def openTransaction (op : Operation) (arg : BitVec 16) (s : State) : State :=
  { clearResults (clearWorking s) with phase := .run, opQ := op, argQ := arg, rc := 0, cause := 0, done := false }

/-- What every END taken in RUN does last (R167). -/
def closeTransaction (s : State) : State := { s with phase := .idle, done := true }

/-- Error publication, the block's exception entry (R186): results cleared, code and cause set, IDLE, `done`. Nothing is saved, and
PBUF and the working registers stay. The return is the next START or reset (R188), which clear the code. -/
def publishError (c : Cause) (s : State) : State :=
  closeTransaction { clearResults s with rc := errorCode c, cause := causeCode c }

/-! SYM. -/

/-- Byte commit (R112): the byte `b` completes at frame index `bidx`. -/
def commitByte (b : Byte) (s : State) : State :=
  { s with
    checksum := b
    startDelimiter := if s.bidx.toNat = 0 then b else s.startDelimiter
    length := placeByte 1 2 s.bidx.toNat s.length b
    frameType := if s.bidx.toNat = 3 then b else s.frameType
    frameId := if s.bidx.toNat = 4 then b else s.frameId
    destinationAddress64 := placeByte 5 12 s.bidx.toNat s.destinationAddress64 b
    destinationAddress16 := placeByte 13 14 s.bidx.toNat s.destinationAddress16 b
    atCommand := placeByte 15 16 s.bidx.toNat s.atCommand b
    status := if s.bidx.toNat = 17 then b else s.status
    response := if s.bidx.toNat = 18 then b else s.response
    fvalid := fvalidAfter s.bidx.toNat s.fvalid
    acc := if Config.payloadStart ≤ s.bidx.toNat then s.acc + b else s.acc
    pbuf := storeByte s.bidx.toNat b s.pbuf
    bidx := nextIndex s.bidx }

/-- Digit pairing (R111). -/
def takeDigit (v : Nibble) (s : State) : State :=
  if s.nib then commitByte (assembleByte s.hi v) { s with nib := false } else { s with hi := v, nib := true }

/-- A character of the text of DECODE, given its class and digit value (R110). -/
def takeCharacter (cls : CharClass) (v : Nibble) (s : State) : State :=
  match cls with
  | .term => { s with tseen := true }
  | .hex => takeDigit v { s with nonhex := nonhexAfter .hex s.tseen s.nonhex }
  | .other => takeDigit v { s with nonhex := nonhexAfter .other s.tseen s.nonhex }

/-- A byte value of SUMBYTES or VERIFY (R135, R137). -/
def addByte (d : Byte) (s : State) : State := { s with acc := s.acc + d }

/-- A SYM event (R164, R165) whose symbol `c` has class `cls` and digit value `v` as a character. -/
def takeSymbol (cls : CharClass) (v : Nibble) (c : Byte) (s : State) : State :=
  match s.phase with
  | .idle => s
  | .run =>
    match s.opQ with
    | .decode => takeCharacter cls v s
    | .sumBytes => addByte c s
    | .deriveChk => s
    | .verify => addByte c s

/-- The SYM event of a symbol value (R165), classified by R74 and R75. -/
def symEvent (c : Byte) (s : State) : State := takeSymbol (classify c) (nibble c) c s

/-! END. -/

/-- Success publication of DECODE (R114). -/
def publishFrame (s : State) : State :=
  { s with
    payloadCount := BitVec.ofNat 16 (s.bidx.toNat - Config.minFrameBytes)
    sum := s.acc
    verdict := verdictOf s.acc
    sumPayload := s.acc - s.checksum
    checksumCalc := complement (s.acc - s.checksum)
    rc := 0
    cause := 0
    frameType := validOrZero s.fvalid 0 s.frameType
    frameId := validOrZero s.fvalid 1 s.frameId
    destinationAddress64 := validOrZero s.fvalid 2 s.destinationAddress64
    destinationAddress16 := validOrZero s.fvalid 3 s.destinationAddress16
    atCommand := validOrZero s.fvalid 4 s.atCommand
    status := validOrZero s.fvalid 5 s.status
    response := validOrZero s.fvalid 6 s.response }

/-- END of DECODE (R113). -/
def endDecode (s : State) : State :=
  match malformedCause s with
  | some c => publishError c s
  | none => closeTransaction (publishFrame s)

/-- END of SUMBYTES (R135). -/
def endSumBytes (s : State) : State := closeTransaction { s with sum := s.acc, rc := 0, cause := 0 }

/-- END of DERIVECHK (R136): the domain check, then the complement. -/
def endDeriveChk (s : State) : State :=
  if 0xFF < s.argQ.toNat then publishError .domain s
  else closeTransaction { s with checksumCalc := complement (argByte s.argQ), rc := 0, cause := 0 }

/-- END of VERIFY (R137): the asserted checksum is added last. -/
def endVerify (s : State) : State :=
  closeTransaction
    { s with sum := s.acc + argByte s.argQ, verdict := verdictOf (s.acc + argByte s.argQ), rc := 0, cause := 0 }

/-- An END event (R166, R167). -/
def endEvent (s : State) : State :=
  match s.phase with
  | .idle => s
  | .run =>
    match s.opQ with
    | .decode => endDecode s
    | .sumBytes => endSumBytes s
    | .deriveChk => endDeriveChk s
    | .verify => endVerify s

/-! Whole transactions (R168). -/

/-- The SYM events of a symbol sequence, in order. -/
def takeSymbols (syms : List Byte) (s : State) : State := syms.foldl (fun t c => symEvent c t) s

/-- START, the symbols, END (R87, R168). -/
def transaction (op : Operation) (arg : BitVec 16) (syms : List Byte) (s : State) : State :=
  endEvent (takeSymbols syms (openTransaction op arg s))

end Sys2Proof.Machine
end

