-- ==== Sys2Proof/Machine/Outputs.lean ====
section
/-! DEFINITION. The derived outputs (10_state.md R34 to R37), the PBUF read port and the payload view (20_memory.md R53, R54), the
output ports (R219), and the result of a transaction (R168). -/

namespace Sys2Proof.Machine

/-- `busy` (R34). -/
def State.busy (s : State) : Bool := decide (s.phase = .run)

/-- `frame_ok` (R34): a Frame record is present. -/
def State.frameOk (s : State) : Bool := s.done && decide (s.rc = 0) && decide (s.opQ = .decode)

/-- `signal_strength` (R35), 9 bits in two's complement. -/
def State.signalStrength (s : State) : BitVec 9 := negate9 s.response

/-- `reading` (R36): the signal strength of an intact frame that has a response byte, else 0. -/
def State.reading (s : State) : BitVec 9 :=
  if s.frameOk && s.verdict && s.fvalid.getLsbD 6 then s.signalStrength else 0

/-- `sum_hex` (R37). -/
def State.sumHex (s : State) : BitVec 16 := hex2 s.sum

/-- `checksum_calc_hex` (R37). -/
def State.checksumCalcHex (s : State) : BitVec 16 := hex2 s.checksumCalc

/-- `PBUF[a]`: the stored byte, or the power-up draw of a cell nothing has written (R51, R213; FREE VALUE, log 4). -/
def State.pbufByte (s : State) (a : Nat) : Byte := (readCell s.pbuf a).getD (Config.pbufPowerUp a)

/-- The read port (R53): `pb_data` at `pb_addr`. A read changes nothing (log 12). -/
def State.pbData (s : State) (pbAddr : BitVec 16) : Byte := s.pbufByte pbAddr.toNat

/-- The cells `0 .. payload_count - 1`, which are `payload_bytes` while `frame_ok` (R54). -/
def State.payloadBytes (s : State) : List Byte := (List.range s.payloadCount.toNat).map s.pbufByte

/-- The output ports of R219, but for `pb_data`, which depends on `pb_addr` (`State.pbData`). -/
structure Outputs where
  busy : Bool
  done : Bool
  frameOk : Bool
  rc : BitVec 2
  cause : BitVec 3
  opQ : BitVec 2
  argQ : BitVec 16
  startDelimiter : Byte
  frameType : Byte
  frameId : Byte
  status : Byte
  response : Byte
  checksum : Byte
  length : BitVec 16
  destinationAddress16 : BitVec 16
  atCommand : BitVec 16
  destinationAddress64 : BitVec 64
  fvalid : BitVec 7
  payloadCount : BitVec 16
  verdict : Bool
  sum : Byte
  sumPayload : Byte
  checksumCalc : Byte
  signalStrength : BitVec 9
  reading : BitVec 9
  sumHex : BitVec 16
  checksumCalcHex : BitVec 16
  deriving DecidableEq, Repr

/-- Every output shows the current value of the register or derived function of its name (R219). -/
def State.outputs (s : State) : Outputs :=
  { busy := s.busy, done := s.done, frameOk := s.frameOk, rc := s.rc, cause := s.cause, opQ := opCode s.opQ, argQ := s.argQ,
    startDelimiter := s.startDelimiter, frameType := s.frameType, frameId := s.frameId, status := s.status,
    response := s.response, checksum := s.checksum, length := s.length, destinationAddress16 := s.destinationAddress16,
    atCommand := s.atCommand, destinationAddress64 := s.destinationAddress64, fvalid := s.fvalid,
    payloadCount := s.payloadCount, verdict := s.verdict, sum := s.sum, sumPayload := s.sumPayload,
    checksumCalc := s.checksumCalc, signalStrength := s.signalStrength, reading := s.reading, sumHex := s.sumHex,
    checksumCalcHex := s.checksumCalcHex }

/-- The result of a transaction (R168): every result register of R28 to R33, and the PBUF cells `0 .. payload_count - 1`. -/
structure Results where
  startDelimiter : Byte
  length : BitVec 16
  frameType : Byte
  frameId : Byte
  destinationAddress64 : BitVec 64
  destinationAddress16 : BitVec 16
  atCommand : BitVec 16
  status : Byte
  response : Byte
  checksum : Byte
  fvalid : BitVec 7
  payloadCount : BitVec 16
  verdict : Bool
  sum : Byte
  sumPayload : Byte
  checksumCalc : Byte
  rc : BitVec 2
  cause : BitVec 3
  done : Bool
  payload : List Byte
  deriving DecidableEq, Repr

/-- The result that a state shows (R168). -/
def State.results (s : State) : Results :=
  { startDelimiter := s.startDelimiter, length := s.length, frameType := s.frameType, frameId := s.frameId,
    destinationAddress64 := s.destinationAddress64, destinationAddress16 := s.destinationAddress16,
    atCommand := s.atCommand, status := s.status, response := s.response, checksum := s.checksum, fvalid := s.fvalid,
    payloadCount := s.payloadCount, verdict := s.verdict, sum := s.sum, sumPayload := s.sumPayload,
    checksumCalc := s.checksumCalc, rc := s.rc, cause := s.cause, done := s.done, payload := s.payloadBytes }

end Sys2Proof.Machine
end

