-- ==== Sys2Proof/Machine/Characters.lean ====
section
/-! DEFINITION. The meanings of the CHAR rows (30_encoding.md R74, R75): each is the SYM event that carries the row's code (R165), taken
with the row's own class and digit value (DESIGN CHOICE, log 7). -/

namespace Sys2Proof.Machine

/-- CHAR row `0` (R75): class HEX, value 0. -/
def execChar0 (s : State) : Result := .next (takeSymbol .hex 0 0x30 s)

/-- CHAR row `1` (R75): class HEX, value 1. -/
def execChar1 (s : State) : Result := .next (takeSymbol .hex 1 0x31 s)

/-- CHAR row `2` (R75): class HEX, value 2. -/
def execChar2 (s : State) : Result := .next (takeSymbol .hex 2 0x32 s)

/-- CHAR row `3` (R75): class HEX, value 3. -/
def execChar3 (s : State) : Result := .next (takeSymbol .hex 3 0x33 s)

/-- CHAR row `4` (R75): class HEX, value 4. -/
def execChar4 (s : State) : Result := .next (takeSymbol .hex 4 0x34 s)

/-- CHAR row `5` (R75): class HEX, value 5. -/
def execChar5 (s : State) : Result := .next (takeSymbol .hex 5 0x35 s)

/-- CHAR row `6` (R75): class HEX, value 6. -/
def execChar6 (s : State) : Result := .next (takeSymbol .hex 6 0x36 s)

/-- CHAR row `7` (R75): class HEX, value 7. -/
def execChar7 (s : State) : Result := .next (takeSymbol .hex 7 0x37 s)

/-- CHAR row `8` (R75): class HEX, value 8. -/
def execChar8 (s : State) : Result := .next (takeSymbol .hex 8 0x38 s)

/-- CHAR row `9` (R75): class HEX, value 9. -/
def execChar9 (s : State) : Result := .next (takeSymbol .hex 9 0x39 s)

/-- CHAR row `A` (R75): class HEX, value 10. -/
def execCharA (s : State) : Result := .next (takeSymbol .hex 10 0x41 s)

/-- CHAR row `B` (R75): class HEX, value 11. -/
def execCharB (s : State) : Result := .next (takeSymbol .hex 11 0x42 s)

/-- CHAR row `C` (R75): class HEX, value 12. -/
def execCharC (s : State) : Result := .next (takeSymbol .hex 12 0x43 s)

/-- CHAR row `D` (R75): class HEX, value 13. -/
def execCharD (s : State) : Result := .next (takeSymbol .hex 13 0x44 s)

/-- CHAR row `E` (R75): class HEX, value 14. -/
def execCharE (s : State) : Result := .next (takeSymbol .hex 14 0x45 s)

/-- CHAR row `F` (R75): class HEX, value 15. -/
def execCharF (s : State) : Result := .next (takeSymbol .hex 15 0x46 s)

/-- CHAR row `a` (R75): class HEX, value 10. -/
def execCharLowerA (s : State) : Result := .next (takeSymbol .hex 10 0x61 s)

/-- CHAR row `b` (R75): class HEX, value 11. -/
def execCharLowerB (s : State) : Result := .next (takeSymbol .hex 11 0x62 s)

/-- CHAR row `c` (R75): class HEX, value 12. -/
def execCharLowerC (s : State) : Result := .next (takeSymbol .hex 12 0x63 s)

/-- CHAR row `d` (R75): class HEX, value 13. -/
def execCharLowerD (s : State) : Result := .next (takeSymbol .hex 13 0x64 s)

/-- CHAR row `e` (R75): class HEX, value 14. -/
def execCharLowerE (s : State) : Result := .next (takeSymbol .hex 14 0x65 s)

/-- CHAR row `f` (R75): class HEX, value 15. -/
def execCharLowerF (s : State) : Result := .next (takeSymbol .hex 15 0x66 s)

/-- CHAR row line feed (R74): class TERM. -/
def execCharLf (s : State) : Result := .next (takeSymbol .term 0 0x0A s)

/-- CHAR row carriage return (R74): class TERM. -/
def execCharCr (s : State) : Result := .next (takeSymbol .term 0 0x0D s)

/-- The default CHAR row (R74, R75): class OTHER, value 0; in DECODE it sets `nonhex`. -/
def execCharOther (c : Byte) (s : State) : Result := .next (takeSymbol .other 0 c s)

end Sys2Proof.Machine
end

