-- ==== Sys2Proof/Machine/Events.lean ====
section
/-! DEFINITION. The meanings of the event words (42_sequencing.md): NOP, the four STARTs, SYM, END. -/

namespace Sys2Proof.Machine

/-- NOP (R161): nothing changes, in either phase. -/
def execNop (s : State) : Result := .next s

/-- START DECODE (R100, R162, R163). -/
def execDecode (arg : BitVec 16) (s : State) : Result := .next (openTransaction .decode arg s)

/-- START SUMBYTES (R135, R162, R163). -/
def execSumbytes (arg : BitVec 16) (s : State) : Result := .next (openTransaction .sumBytes arg s)

/-- START DERIVECHK (R136, R162, R163). It never raises; the domain is checked at END. -/
def execDerivechk (arg : BitVec 16) (s : State) : Result := .next (openTransaction .deriveChk arg s)

/-- START VERIFY (R137, R162, R163). -/
def execVerify (arg : BitVec 16) (s : State) : Result := .next (openTransaction .verify arg s)

/-- SYM (R164, R165; in DECODE R110 to R112). -/
def execSym (c : Byte) (s : State) : Result := .next (symEvent c s)

/-- END (R166, R167): the only event that raises, and it raises by publication (R186). -/
def execEndTx (s : State) : Result := .next (endEvent s)

end Sys2Proof.Machine
end

