-- ==== Sys2Proof/Machine/Frames.lean ====
section
/-! DEFINITION. The meaning of the FRAME row: one frame, given to DECODE as its text (30_encoding.md R70 to R73; log 8). -/

namespace Sys2Proof.Machine

/-- FRAME: the DECODE transaction whose text is the frame's bytes in upper-case digits (R73, R100; DESIGN CHOICE, log 8). -/
def execFrame (bytes : List Byte) (s : State) : Result := .next (transaction .decode 0 (frameText bytes) s)

end Sys2Proof.Machine
end

