-- ==== Sys2Proof/Machine/Pseudo.lean ====
section
/-! DEFINITION. The meanings of the pseudo-operations of 30_encoding.md R88, each as the whole of its expansion (log 9). -/

namespace Sys2Proof.Machine

/-- GENCHK (R88, R141): SUMBYTES of the bytes, then DERIVECHK of the `sum` register it left, zero-extended into `arg`. -/
def execGenchk (bytes : List Byte) (s : State) : Result :=
  .next (transaction .deriveChk ((transaction .sumBytes 0 bytes s).sum.setWidth 16) [] (transaction .sumBytes 0 bytes s))

/-- DECODELN (R88): DECODE of the text and a line feed. -/
def execDecodeln (text : List Byte) (s : State) : Result := .next (transaction .decode 0 (text ++ [0x0A#8]) s)

/-- The host takes `reading` (R36, R88, R190; DESIGN CHOICE, log 13). -/
def takeReading (s : State) : State := { s with readings := s.readings ++ [s.reading] }

/-- CHECK (R88): DECODE of the text, after which the host takes `reading`. -/
def execCheck (text : List Byte) (s : State) : Result := .next (takeReading (transaction .decode 0 text s))

end Sys2Proof.Machine
end

