-- ==== Sys2Proof/Machine/Dispatch.lean ====
section
/-! DEFINITION. One arm per constructor of Instr, in the opcode table's order, each a direct call of the instruction's meaning. -/

namespace Sys2Proof.Machine

def exec (i : Instr) (s : State) : Host.Outcome State Fault Refusal :=
  match i with
  | .nop => Sys2Proof.Machine.execNop s
  | .decode arg => Sys2Proof.Machine.execDecode arg s
  | .sumbytes arg => Sys2Proof.Machine.execSumbytes arg s
  | .derivechk arg => Sys2Proof.Machine.execDerivechk arg s
  | .verify arg => Sys2Proof.Machine.execVerify arg s
  | .sym c => Sys2Proof.Machine.execSym c s
  | .endTx => Sys2Proof.Machine.execEndTx s
  | .frame bytes => Sys2Proof.Machine.execFrame bytes s
  | .char0 => Sys2Proof.Machine.execChar0 s
  | .char1 => Sys2Proof.Machine.execChar1 s
  | .char2 => Sys2Proof.Machine.execChar2 s
  | .char3 => Sys2Proof.Machine.execChar3 s
  | .char4 => Sys2Proof.Machine.execChar4 s
  | .char5 => Sys2Proof.Machine.execChar5 s
  | .char6 => Sys2Proof.Machine.execChar6 s
  | .char7 => Sys2Proof.Machine.execChar7 s
  | .char8 => Sys2Proof.Machine.execChar8 s
  | .char9 => Sys2Proof.Machine.execChar9 s
  | .charA => Sys2Proof.Machine.execCharA s
  | .charB => Sys2Proof.Machine.execCharB s
  | .charC => Sys2Proof.Machine.execCharC s
  | .charD => Sys2Proof.Machine.execCharD s
  | .charE => Sys2Proof.Machine.execCharE s
  | .charF => Sys2Proof.Machine.execCharF s
  | .charLowerA => Sys2Proof.Machine.execCharLowerA s
  | .charLowerB => Sys2Proof.Machine.execCharLowerB s
  | .charLowerC => Sys2Proof.Machine.execCharLowerC s
  | .charLowerD => Sys2Proof.Machine.execCharLowerD s
  | .charLowerE => Sys2Proof.Machine.execCharLowerE s
  | .charLowerF => Sys2Proof.Machine.execCharLowerF s
  | .charLf => Sys2Proof.Machine.execCharLf s
  | .charCr => Sys2Proof.Machine.execCharCr s
  | .charOther c => Sys2Proof.Machine.execCharOther c s
  | .genchk bytes => Sys2Proof.Machine.execGenchk bytes s
  | .decodeln text => Sys2Proof.Machine.execDecodeln text s
  | .check text => Sys2Proof.Machine.execCheck text s

end Sys2Proof.Machine
end

