-- ==== Sys2Proof/Machine/Step.lean ====
section
/-! DEFINITION. One step (42_sequencing.md R160): what the host presents, the reset step or the decoded instruction. -/

namespace Sys2Proof.Machine

/-- One step (R160): reset wins over the event of the same step; else the step is the meaning of the decoded instruction. -/
def step (s : State) : Host.Outcome State Fault Refusal :=
  if isReset (nextInput s).1 then .next (resetStep (nextInput s).2) else exec (decodeInput (nextInput s).1) (nextInput s).2

/-- `s` with the host presenting a word of the opcode table at the next step (logs 3, 11); `s` itself for a number that is no word. -/
def State.withFetchWord (s : State) (nbits w : Nat) : State :=
  match tableItem nbits w with
  | .ok item => { s with input := item :: s.input }
  | .error _ => s

end Sys2Proof.Machine
end

