-- ==== Sys2Proof/Machine/Functional.lean ====
section
/-! DEFINITION. The functional form of every operation (00_scope.md R9; 40_decode.md R100 to R109; 41_checksum.md R130 to R133): the
result as a function of the whole input. It is normative for results and calls none of the streaming operations. -/

namespace Sys2Proof.Machine.Functional

/-- `sumBytes` (R130): the integer sum, then its lowest 8 bits. -/
def sumBytes (s : List Byte) : Byte := BitVec.ofNat 8 (s.map BitVec.toNat).sum

/-- `deriveChecksum` (R131): `0xFF - added` inside the domain, nothing outside it. -/
def deriveChecksum (added : Nat) : Option Byte := if added ≤ 0xFF then some (BitVec.ofNat 8 (0xFF - added)) else none

/-- `verify` (R132): the sum with the asserted checksum appended is `0xFF`. -/
def verify (p : List Byte) (k : Byte) : Bool := decide (sumBytes (p ++ [k]) = 0xFF#8)

/-- Step 1 of DECODE (R101): trailing terminators removed, in any number and mixture, and nothing else. -/
def strip (t : List Byte) : List Byte := (t.reverse.dropWhile (fun c => decide (classify c = .term))).reverse

/-- The bytes of a text of digit pairs (R103). -/
def textBytes : List Byte → List Byte
  | c0 :: c1 :: rest => BitVec.ofNat 8 (16 * (nibble c0).toNat + (nibble c1).toNat) :: textBytes rest
  | _ => []

/-- Frame byte `i` (R103). -/
def frameByte (b : List Byte) (i : Nat) : Byte := b.getD i 0

/-- The number whose big-endian digits in base 256 are the given bytes (R55). -/
def bigEndian (bytes : List Byte) : Nat := bytes.foldl (fun n b => 256 * n + b.toNat) 0

/-- The field of frame bytes `lo` to `hi` (R106): its bytes in order if the last one exists, else zero. -/
def field (w : Nat) (b : List Byte) (lo hi : Nat) : BitVec w :=
  if hi < b.length then BitVec.ofNat w (bigEndian ((b.drop lo).take (hi + 1 - lo))) else 0

/-- `fvalid` of a frame of `n` bytes (R29): each bit by the field's highest byte index. -/
def validBits (n : Nat) : BitVec 7 :=
  (if 4 ≤ n then 0b0000001#7 else 0) ||| (if 5 ≤ n then 0b0000010#7 else 0) |||
  (if 13 ≤ n then 0b0000100#7 else 0) ||| (if 15 ≤ n then 0b0001000#7 else 0) |||
  (if 17 ≤ n then 0b0010000#7 else 0) ||| (if 18 ≤ n then 0b0100000#7 else 0) |||
  (if 19 ≤ n then 0b1000000#7 else 0)

/-- The payload of a frame (R107): bytes 3 to n - 2. -/
def payloadOf (b : List Byte) : List Byte := (b.drop 3).take (b.length - 4)

/-- The value of the length field (R77, R105). -/
def lengthOf (b : List Byte) : Nat := 256 * (frameByte b 1).toNat + (frameByte b 2).toNat

/-- All result registers zero, with a code and a cause (R115, R181, R186). -/
def noResult (rc : BitVec 2) (cause : BitVec 3) : Results :=
  { startDelimiter := 0, length := 0, frameType := 0, frameId := 0, destinationAddress64 := 0, destinationAddress16 := 0,
    atCommand := 0, status := 0, response := 0, checksum := 0, fvalid := 0, payloadCount := 0, verdict := false, sum := 0,
    sumPayload := 0, checksumCalc := 0, rc := rc, cause := cause, done := true, payload := [] }

/-- The Frame record and checksum results of a frame that passes every check (R106 to R108). -/
def frameResult (b : List Byte) : Results :=
  { startDelimiter := frameByte b 0
    length := BitVec.ofNat 16 (lengthOf b)
    frameType := field 8 b 3 3
    frameId := field 8 b 4 4
    destinationAddress64 := field 64 b 5 12
    destinationAddress16 := field 16 b 13 14
    atCommand := field 16 b 15 16
    status := field 8 b 17 17
    response := field 8 b 18 18
    checksum := frameByte b (b.length - 1)
    fvalid := validBits b.length
    payloadCount := BitVec.ofNat 16 (b.length - 4)
    verdict := verify (payloadOf b) (frameByte b (b.length - 1))
    sum := sumBytes (payloadOf b ++ [frameByte b (b.length - 1)])
    sumPayload := sumBytes (payloadOf b)
    checksumCalc := (deriveChecksum (sumBytes (payloadOf b)).toNat).getD 0
    rc := 0
    cause := 0
    done := true
    payload := payloadOf b }

/-- DECODE of the bytes of a text that passes the text checks (R104, R105). -/
def decodeBytes (b : List Byte) : Results :=
  if frameByte b 0 ≠ 0x7E#8 then noResult 1 4
  else if lengthOf b ≠ b.length - 4 then noResult 1 5
  else frameResult b

/-- DECODE of a text (R101, R102): the three text checks on the stripped text, in order. -/
def decodeText (t : List Byte) : Results :=
  if (strip t).any (fun c => decide (classify c ≠ .hex)) then noResult 1 1
  else if (strip t).length % 2 = 1 then noResult 1 2
  else if (strip t).length < 8 then noResult 1 3
  else decodeBytes (textBytes (strip t))

/-- The result of any transaction as a function of its input alone (R168): R100 for DECODE, R135 to R137 for the rest. -/
def result (op : Operation) (arg : BitVec 16) (syms : List Byte) : Results :=
  match op with
  | .decode => decodeText syms
  | .sumBytes => { noResult 0 0 with sum := sumBytes syms }
  | .deriveChk =>
    match deriveChecksum arg.toNat with
    | some c => { noResult 0 0 with checksumCalc := c }
    | none => noResult 2 6
  | .verify =>
    { noResult 0 0 with
      sum := sumBytes (syms ++ [arg.extractLsb' 0 8])
      verdict := verify syms (arg.extractLsb' 0 8) }

/-- `reading` as a function of the text of a DECODE (R36, R109, R190): the negated response byte of a frame that decodes, verifies
and has a response byte, else 0. -/
def readingOf (t : List Byte) : BitVec 9 :=
  if (decodeText t).rc = 0 ∧ (decodeText t).verdict = true ∧ (decodeText t).fvalid.getLsbD 6 = true then
    BitVec.ofInt 9 (-((decodeText t).response.toNat : Int))
  else 0

end Sys2Proof.Machine.Functional
end

