-- ==== Sys2Proof/Machine/Script.lean ====
section
/-! DEFINITION. The script notation of 30_encoding.md R87 and R88 as data: a line, and what the host presents for it. -/

namespace Sys2Proof.Machine

/-- One line of a script. In the text of a DECODE, `\n` and `\r` stand for the one character 0x0A and 0x0D. -/
inductive ScriptLine where
  | decode (text : List Byte)
  | sumbytes (bytes : List Byte)
  | derivechk (a : BitVec 16)
  | verify (k : Byte) (bytes : List Byte)
  | nop
  | reset
  | start (op : BitVec 2) (arg : BitVec 16)
  | sym (s : Byte)
  | endTx
  | genchk (bytes : List Byte)
  | decodeln (text : List Byte)
  | check (text : List Byte)
  deriving DecidableEq, Repr

/-- The edges of event words, `rst = 0`. -/
def wordEdges (ws : List EventWord) : List HostInput := ws.map (fun w => .edge (portsOfWord w))

/-- The inputs a line stands for (R87). A pseudo-operation is presented as one item (R88; log 9). -/
def scriptInputs : ScriptLine → List HostInput
  | .decode text => wordEdges (transactionWords .decode 0 text)
  | .sumbytes bytes => wordEdges (transactionWords .sumBytes 0 bytes)
  | .derivechk a => wordEdges (transactionWords .deriveChk a [])
  | .verify k bytes => wordEdges (transactionWords .verify (k.setWidth 16) bytes)
  | .nop => wordEdges [nopWord]
  | .reset => [.edge { idlePorts with rst := true }]
  | .start op arg => wordEdges [(1#2 ++ op ++ arg ++ 0#8 : EventWord)]
  | .sym s => wordEdges [symWord s]
  | .endTx => wordEdges [endWord]
  | .genchk bytes => [.genchk bytes]
  | .decodeln text => [.decodeln text]
  | .check text => [.check text]

/-- The host presents a script after what it already presents. -/
def State.withScript (s : State) (lines : List ScriptLine) : State :=
  { s with input := s.input ++ lines.flatMap scriptInputs }

end Sys2Proof.Machine
end

