-- ==== Sys2Proof/Safety.lean ====
section
/-! DEFINITION. What counts as a safe run, and the invariants that claims are stated with. -/

namespace Sys2Proof.Safety

open Sys2Proof.Machine

/-- `k` steps of the machine behind the host's interface. -/
def run (k : Nat) (s : State) : Result := Host.Core.run Sys2Proof.core k s

/-- A run of `k` steps is safe when no step of it faults or refuses (R160). -/
def SafeRun (k : Nat) (s : State) : Prop := ∃ t, run k s = .next t

/-- The state with the host presenting further items before what it already presents. -/
def presenting (items : List HostInput) (s : State) : State := { s with input := items ++ s.input }

/-- An event word that is no NOP (R80). -/
def isActive (w : EventWord) : Bool := decide (w.extractLsb' 26 2 ≠ 0#2)

/-- The 22 digit rows of the opcode table: instruction, character code, digit value (R75). -/
def digitRows : List (Instr × Byte × Nibble) :=
  [(.char0, 0x30, 0), (.char1, 0x31, 1), (.char2, 0x32, 2), (.char3, 0x33, 3), (.char4, 0x34, 4)] ++
  [(.char5, 0x35, 5), (.char6, 0x36, 6), (.char7, 0x37, 7), (.char8, 0x38, 8), (.char9, 0x39, 9)] ++
  [(.charA, 0x41, 10), (.charB, 0x42, 11), (.charC, 0x43, 12), (.charD, 0x44, 13), (.charE, 0x45, 14), (.charF, 0x46, 15)] ++
  [(.charLowerA, 0x61, 10), (.charLowerB, 0x62, 11), (.charLowerC, 0x63, 12), (.charLowerD, 0x64, 13), (.charLowerE, 0x65, 14), (.charLowerF, 0x66, 15)]

/-- The state an error publication leaves (R115, R186): every result register zero, the code and the cause, IDLE, `done`, and
everything else as it was. -/
def failed (rc : BitVec 2) (cause : BitVec 3) (s : State) : State :=
  { s with
    startDelimiter := 0, length := 0, frameType := 0, frameId := 0, destinationAddress64 := 0, destinationAddress16 := 0,
    atCommand := 0, status := 0, response := 0, checksum := 0, fvalid := 0, payloadCount := 0, verdict := false, sum := 0,
    sumPayload := 0, checksumCalc := 0, rc := rc, cause := cause, phase := .idle, done := true }

/-- The commit of byte `b` at frame index `i = bidx` of `s` leaves `t` (R112, R52), said register by register and byte by byte. -/
structure Committed (b : Byte) (s t : State) : Prop where
  checksum : t.checksum = b
  startDelimiter : t.startDelimiter = if s.bidx.toNat = 0 then b else s.startDelimiter
  lengthHigh : t.length.extractLsb' 8 8 = if s.bidx.toNat = 1 then b else s.length.extractLsb' 8 8
  lengthLow : t.length.extractLsb' 0 8 = if s.bidx.toNat = 2 then b else s.length.extractLsb' 0 8
  frameType : t.frameType = if s.bidx.toNat = 3 then b else s.frameType
  frameId : t.frameId = if s.bidx.toNat = 4 then b else s.frameId
  address64 : ∀ k, k < 8 →
    t.destinationAddress64.extractLsb' (8 * k) 8 =
      if s.bidx.toNat = 12 - k then b else s.destinationAddress64.extractLsb' (8 * k) 8
  address16 : ∀ k, k < 2 →
    t.destinationAddress16.extractLsb' (8 * k) 8 =
      if s.bidx.toNat = 14 - k then b else s.destinationAddress16.extractLsb' (8 * k) 8
  atCommand : ∀ k, k < 2 →
    t.atCommand.extractLsb' (8 * k) 8 = if s.bidx.toNat = 16 - k then b else s.atCommand.extractLsb' (8 * k) 8
  status : t.status = if s.bidx.toNat = 17 then b else s.status
  response : t.response = if s.bidx.toNat = 18 then b else s.response
  fvalid : ∀ j, j < 7 →
    t.fvalid.getLsbD j = (s.fvalid.getLsbD j || decide (s.bidx.toNat = [3, 4, 12, 14, 16, 17, 18].getD j 0))
  acc : t.acc.toNat = if 3 ≤ s.bidx.toNat then (s.acc.toNat + b.toNat) % 256 else s.acc.toNat
  bidx : t.bidx.toNat = min (s.bidx.toNat + 1) 131071
  stored : 3 ≤ s.bidx.toNat → s.bidx.toNat ≤ 65538 → readCell t.pbuf (s.bidx.toNat - 3) = some b
  otherCells : ∀ a, pbufTarget s.bidx.toNat ≠ some a → readCell t.pbuf a = readCell s.pbuf a
  unchanged :
    t.phase = s.phase ∧ t.opQ = s.opQ ∧ t.argQ = s.argQ ∧ t.nib = s.nib ∧ t.hi = s.hi ∧ t.tseen = s.tseen ∧
    t.nonhex = s.nonhex ∧ t.payloadCount = s.payloadCount ∧ t.verdict = s.verdict ∧ t.sum = s.sum ∧
    t.sumPayload = s.sumPayload ∧ t.checksumCalc = s.checksumCalc ∧ t.rc = s.rc ∧ t.cause = s.cause ∧ t.done = s.done ∧
    t.input = s.input ∧ t.readings = s.readings

/-- A field of a delivered frame: kept if its valid bit is set, zero otherwise (R114). -/
def keptOrZero {w : Nat} (valid : Bool) (before after : BitVec w) : Prop := after = if valid then before else 0

/-- The success publication of DECODE leaves `t` (R113, R114), said register by register. -/
structure FramePublished (s t : State) : Prop where
  payloadCount : t.payloadCount.toNat = s.bidx.toNat - 4
  sum : t.sum = s.acc
  verdict : t.verdict = true ↔ s.acc = 0xFF
  sumPayload : t.sumPayload.toNat = (256 + s.acc.toNat - s.checksum.toNat) % 256
  checksumCalc : t.checksumCalc.toNat = 255 - t.sumPayload.toNat
  codes : t.rc = 0 ∧ t.cause = 0 ∧ t.phase = .idle ∧ t.done = true
  frameType : keptOrZero (s.fvalid.getLsbD 0) s.frameType t.frameType
  frameId : keptOrZero (s.fvalid.getLsbD 1) s.frameId t.frameId
  address64 : keptOrZero (s.fvalid.getLsbD 2) s.destinationAddress64 t.destinationAddress64
  address16 : keptOrZero (s.fvalid.getLsbD 3) s.destinationAddress16 t.destinationAddress16
  atCommand : keptOrZero (s.fvalid.getLsbD 4) s.atCommand t.atCommand
  status : keptOrZero (s.fvalid.getLsbD 5) s.status t.status
  response : keptOrZero (s.fvalid.getLsbD 6) s.response t.response
  unchanged :
    t.opQ = s.opQ ∧ t.argQ = s.argQ ∧ t.nib = s.nib ∧ t.hi = s.hi ∧ t.bidx = s.bidx ∧ t.tseen = s.tseen ∧
    t.nonhex = s.nonhex ∧ t.acc = s.acc ∧ t.startDelimiter = s.startDelimiter ∧ t.length = s.length ∧
    t.checksum = s.checksum ∧ t.fvalid = s.fvalid ∧ t.pbuf = s.pbuf ∧ t.input = s.input ∧ t.readings = s.readings

/-- The result registers of R28 to R32 are all zero (R115, R186). -/
def ResultsCleared (s : State) : Prop :=
  s.startDelimiter = 0 ∧ s.length = 0 ∧ s.frameType = 0 ∧ s.frameId = 0 ∧ s.destinationAddress64 = 0 ∧
  s.destinationAddress16 = 0 ∧ s.atCommand = 0 ∧ s.status = 0 ∧ s.response = 0 ∧ s.checksum = 0 ∧ s.fvalid = 0 ∧
  s.payloadCount = 0 ∧ s.verdict = false ∧ s.sum = 0 ∧ s.sumPayload = 0 ∧ s.checksumCalc = 0

/-- The result code and the cause agree (R181, R191). -/
def CodesAgree (s : State) : Prop :=
  (s.rc = 0 ∧ s.cause = 0) ∨ (s.rc = 1 ∧ 1 ≤ s.cause.toNat ∧ s.cause.toNat ≤ 5) ∨ (s.rc = 2 ∧ s.cause = 6)

/-- The registers that only an END or the DECODE of a frame fills (R42): empty while a transaction is open (R216). -/
def NothingPublished (s : State) : Prop :=
  s.payloadCount = 0 ∧ s.verdict = false ∧ s.sum = 0 ∧ s.sumPayload = 0 ∧ s.checksumCalc = 0 ∧ s.rc = 0 ∧ s.cause = 0 ∧
  s.done = false

/-- The registers that no operation but DECODE fills (R42). -/
def NoFrameData (s : State) : Prop :=
  s.startDelimiter = 0 ∧ s.length = 0 ∧ s.frameType = 0 ∧ s.frameId = 0 ∧ s.destinationAddress64 = 0 ∧
  s.destinationAddress16 = 0 ∧ s.atCommand = 0 ∧ s.status = 0 ∧ s.response = 0 ∧ s.checksum = 0 ∧ s.fvalid = 0 ∧
  s.payloadCount = 0 ∧ s.sumPayload = 0 ∧ s.nib = false ∧ s.hi = 0 ∧ s.bidx = 0 ∧ s.tseen = false ∧ s.nonhex = false

/-- What a delivered Frame record satisfies (R29, R104, R105, R108, R114). -/
structure FrameSound (s : State) : Prop where
  complete : 4 ≤ s.bidx.toNat ∧ s.nib = false ∧ s.nonhex = false
  delimiter : s.startDelimiter = 0x7E
  lengthMatches : s.length.toNat + 4 = s.bidx.toNat ∧ s.payloadCount = s.length
  sums : s.sum = s.acc ∧ s.sumPayload = s.acc - s.checksum ∧ s.checksumCalc = 0xFF - s.sumPayload
  verdictRule : s.verdict = true ↔ s.sum = 0xFF
  absentFieldsZero :
    (s.fvalid.getLsbD 0 = false → s.frameType = 0) ∧ (s.fvalid.getLsbD 1 = false → s.frameId = 0) ∧
    (s.fvalid.getLsbD 2 = false → s.destinationAddress64 = 0) ∧ (s.fvalid.getLsbD 3 = false → s.destinationAddress16 = 0) ∧
    (s.fvalid.getLsbD 4 = false → s.atCommand = 0) ∧ (s.fvalid.getLsbD 5 = false → s.status = 0) ∧
    (s.fvalid.getLsbD 6 = false → s.response = 0)

/-- What holds of the registers in every state a run reaches (R29, R31, R32, R35, R42, R115, R181 to R186, R191, R216). -/
structure BlockInv (s : State) : Prop where
  codes : CodesAgree s
  doneIdle : s.done = true → s.phase = .idle
  openEmpty : s.phase = .run → NothingPublished s
  errorCleared : s.rc ≠ 0 → s.done = true ∧ ResultsCleared s
  malformedByDecode : s.rc = 1 → s.opQ = .decode
  domainByDerive : s.rc = 2 → s.opQ = .deriveChk ∧ 0xFF < s.argQ.toNat
  otherOperations : s.opQ ≠ .decode → NoFrameData s
  validBits : s.opQ = .decode → s.rc = 0 → s.fvalid = Functional.validBits s.bidx.toNat
  frame : s.frameOk = true → FrameSound s
  responseAbsent : s.fvalid.getLsbD 6 = false → s.response = 0
  sumResult : s.opQ = .sumBytes → s.done = true → s.sum = s.acc ∧ s.verdict = false ∧ s.checksumCalc = 0
  deriveResult :
    s.opQ = .deriveChk → s.done = true → s.rc = 0 →
      s.argQ.toNat ≤ 0xFF ∧ s.checksumCalc.toNat = 0xFF - s.argQ.toNat ∧ s.sum = 0 ∧ s.verdict = false
  verifyResult :
    s.opQ = .verify → s.done = true →
      s.sum = s.acc + s.argQ.extractLsb' 0 8 ∧ (s.verdict = true ↔ s.sum = 0xFF) ∧ s.checksumCalc = 0

/-- The first `n` cells of PBUF as the host reads them. -/
def cells (s : State) (n : Nat) : List Byte := (List.range n).map s.pbufByte

/-- How `acc` and `checksum` stand to PBUF while a frame is decoded and after it has been (R27, R52, R112). An error clears `checksum`
and keeps `acc`, `bidx` and PBUF (R115). -/
structure PayloadInv (s : State) : Prop where
  before : s.opQ = .decode → s.bidx.toNat < 3 → s.acc = 0
  running :
    s.opQ = .decode → 3 ≤ s.bidx.toNat → s.bidx.toNat ≤ 65539 → s.acc = Functional.sumBytes (cells s (s.bidx.toNat - 3))
  last :
    s.opQ = .decode → s.phase = .run ∨ s.rc = 0 → 4 ≤ s.bidx.toNat → s.bidx.toNat ≤ 65539 →
      s.pbufByte (s.bidx.toNat - 4) = s.checksum

end Sys2Proof.Safety
end

