-- ==== Sys2Proof/Certificates/Slice0/Obligations.lean ====
section
/-! DEFINITION. The statements for the provers, from the numbered rules of spec/. -/

open Sys2Proof Sys2Proof.Machine Sys2Proof.Safety

/-! Encoding. -/

/-- R83: the fields of the event word, its canonical words, and the masks that select the event and a START's operation. -/
def Obligations.EventWordFormat : Prop :=
  (∀ p : Ports, portsOfWord (portsWord p) = { p with rst := false }) ∧
  (∀ w : EventWord, (portsOfWord w).ev = w.extractLsb' 26 2 ∧ (portsOfWord w).op = w.extractLsb' 24 2 ∧
    (portsOfWord w).arg = w.extractLsb' 8 16 ∧ (portsOfWord w).sym = w.extractLsb' 0 8) ∧
  eventWords .nop = [0x0000000#28] ∧ eventWords (.decode 0) = [0x4000000#28] ∧ eventWords (.sumbytes 0) = [0x5000000#28] ∧
  (∀ arg : BitVec 16, eventWords (.derivechk arg) = [BitVec.ofNat 28 (0x6000000 + arg.toNat * 256)]) ∧
  (∀ k : Byte, eventWords (.verify (k.setWidth 16)) = [BitVec.ofNat 28 (0x7000000 + k.toNat * 256)]) ∧
  (∀ c : Byte, eventWords (.sym c) = [BitVec.ofNat 28 (0x8000000 + c.toNat)]) ∧ eventWords .endTx = [0xC000000#28] ∧
  (∀ w : EventWord,
    (w &&& 0xC000000#28 = 0x0000000#28 → decodeEvent w = .nop) ∧
    (w &&& 0xF000000#28 = 0x4000000#28 → decodeEvent w = .decode (w.extractLsb' 8 16)) ∧
    (w &&& 0xF000000#28 = 0x5000000#28 → decodeEvent w = .sumbytes (w.extractLsb' 8 16)) ∧
    (w &&& 0xF000000#28 = 0x6000000#28 → decodeEvent w = .derivechk (w.extractLsb' 8 16)) ∧
    (w &&& 0xF000000#28 = 0x7000000#28 → decodeEvent w = .verify (w.extractLsb' 8 16)) ∧
    (w &&& 0xC000000#28 = 0x8000000#28 → decodeEvent w = .sym (w.extractLsb' 0 8)) ∧
    (w &&& 0xC000000#28 = 0xC000000#28 → decodeEvent w = .endTx))

/-- Decode and encode agree: every well-formed instruction, with every operand, comes back from the item it is encoded as; and an
event comes back from its word as the opcode table numbers it. The items of FRAME, CHAR and PSEUDO rows, and the width 32 of a table
word, are the model's choice (logs 7, 8, 9, 11). -/
def Obligations.DecodeEncodeAgree : Prop :=
  (∀ i : Instr, i.WellFormed = true → decodeInput (encode i) = i ∧ isReset (encode i) = false) ∧
  (∀ i : Instr, ∀ w : EventWord, encode i = .edge (portsOfWord w) → eventWords i = [w] → decodeTableWord 32 w.toNat = some i)

/-- Words written out from the opcode table and the vectors of 95_test_vectors.md decode to what they stand for. The model's choice
(log 11): the widths 32 and 8, and that the 8-bit word 0x7E is the FRAME row and not CHAR_OTHER, continued by three zero bytes. -/
def Obligations.WrittenOutWordsDecode : Prop :=
  decodeTableWord 32 0x0000000 = some .nop ∧ decodeTableWord 32 0x4000000 = some (.decode 0) ∧
  decodeTableWord 32 0x5000000 = some (.sumbytes 0) ∧ decodeTableWord 32 0x6FFFF00 = some (.derivechk 0xFFFF) ∧
  decodeTableWord 32 0x7017E00 = some (.verify 0x017E) ∧ decodeTableWord 32 0x800000A = some (.sym 0x0A) ∧
  decodeTableWord 32 0xC000000 = some .endTx ∧ decodeTableWord 8 0x7E = some (.frame [0x7E, 0, 0, 0]) ∧
  decodeTableWord 8 0x30 = some .char0 ∧ decodeTableWord 8 0x46 = some .charF ∧ decodeTableWord 8 0x61 = some .charLowerA ∧
  decodeTableWord 8 0x0A = some .charLf ∧ decodeTableWord 8 0x0D = some .charCr ∧ decodeTableWord 8 0x20 = some (.charOther 0x20)

/-- R74, R75: the classes and their sizes, and the digit values. -/
def Obligations.CharacterClassesAndDigits : Prop :=
  (∀ c : Byte,
    (classify c = .hex ↔
      (0x30 ≤ c.toNat ∧ c.toNat ≤ 0x39) ∨ (0x41 ≤ c.toNat ∧ c.toNat ≤ 0x46) ∨ (0x61 ≤ c.toNat ∧ c.toNat ≤ 0x66)) ∧
    (classify c = .term ↔ c = 0x0A#8 ∨ c = 0x0D#8) ∧
    (0x30 ≤ c.toNat → c.toNat ≤ 0x39 → (nibble c).toNat = c.toNat - 0x30) ∧
    (0x41 ≤ c.toNat → c.toNat ≤ 0x46 → (nibble c).toNat = c.toNat - 0x37) ∧
    (0x61 ≤ c.toNat → c.toNat ≤ 0x66 → (nibble c).toNat = c.toNat - 0x57) ∧
    (classify c ≠ .hex → nibble c = 0)) ∧
  ((List.range 256).filter (fun n => decide (classify (BitVec.ofNat 8 n) = .hex))).length = 22 ∧
  ((List.range 256).filter (fun n => decide (classify (BitVec.ofNat 8 n) = .term))).length = 2 ∧
  ((List.range 256).filter (fun n => decide (classify (BitVec.ofNat 8 n) = .other))).length = 232

/-- Every symbol value has one CHAR row, and running that row is taking the symbol: the opcode table's rows and the classification
of R74 and R75 say the same. That a CHAR row runs as a SYM event is the model's choice (log 7). -/
def Obligations.CharacterRowIsItsSymbol : Prop :=
  ∀ (c : Byte) (s : State),
    (decodeChar c).WellFormed = true ∧ encode (decodeChar c) = .char c ∧ exec (decodeChar c) s = exec (.sym c) s

/-- R78: `hex2` is two upper-case characters, as a text and as a port value. -/
def Obligations.HexRendering : Prop :=
  ∀ v : Byte,
    hexText v =
      [([0x30, 0x31, 0x32, 0x33, 0x34, 0x35, 0x36, 0x37, 0x38, 0x39, 0x41, 0x42, 0x43, 0x44, 0x45, 0x46] : List Byte).getD
          (v.toNat / 16) 0,
       ([0x30, 0x31, 0x32, 0x33, 0x34, 0x35, 0x36, 0x37, 0x38, 0x39, 0x41, 0x42, 0x43, 0x44, 0x45, 0x46] : List Byte).getD
          (v.toNat % 16) 0] ∧
    (hex2 v).extractLsb' 8 8 = (hexText v).getD 0 0 ∧ (hex2 v).extractLsb' 0 8 = (hexText v).getD 1 0

/-- R79: `val` undoes `hex2`, and `hex2` of a token's value is the token in upper case. -/
def Obligations.TokenValues : Prop :=
  (∀ v : Byte, tokenValue ((hexText v).getD 0 0) ((hexText v).getD 1 0) = v) ∧
  (∀ c0 c1 : Byte, classify c0 = .hex → classify c1 = .hex →
    (tokenValue c0 c1).toNat = 16 * (nibble c0).toNat + (nibble c1).toNat ∧
    hexText (tokenValue c0 c1) = [c0, c1].map (fun c => if 0x61 ≤ c.toNat then c - 0x20 else c))

/-! The step, reset, and the host's side. -/

/-- R160: where the host's next item is no reset, the step is `exec` of the decoded instruction, in the state that has the item
taken off the host's list and is otherwise the same. -/
def Obligations.StepRunsDecodedInstruction : Prop :=
  ∀ (s : State) (item : HostInput) (rest : List HostInput), s.input = item :: rest → isReset item = false →
    step s = exec (decodeInput item) { s with input := rest }

/-- R210: a step with `rst = 1` puts every register at its reset value in any phase, ignores the event inputs, and leaves PBUF. -/
def Obligations.ResetStep : Prop :=
  ∀ (s : State) (p : Ports) (rest : List HostInput), s.input = .edge p :: rest → p.rst = true →
    step s = .next { State.reset with pbuf := s.pbuf, input := rest, readings := s.readings }

/-- The model's choice (log 2): a host that presents nothing shows NOP, so the step changes nothing. -/
def Obligations.IdlePortIsNop : Prop := ∀ s : State, s.input = [] → step s = .next s

/-- R160, R220, R222: no run of any length, from any state, faults or refuses. -/
def Obligations.NoRunStops : Prop := ∀ (k : Nat) (s : State), SafeRun k s

/-- R41: when reset is taken every register has the value of R41's table, whatever it held, and PBUF keeps its bytes. The derived
outputs follow. -/
def Obligations.ResetRegisters : Prop :=
  ∀ (s : State) (p : Ports) (rest : List HostInput), s.input = .edge p :: rest → p.rst = true →
    ∃ t, step s = .next t ∧
      t.phase = .idle ∧ t.opQ = .decode ∧ t.argQ = 0 ∧ t.nib = false ∧ t.hi = 0 ∧ t.bidx = 0 ∧ t.tseen = false ∧
      t.nonhex = false ∧ t.acc = 0 ∧ ResultsCleared t ∧ t.rc = 0 ∧ t.cause = 0 ∧ t.done = false ∧
      (∀ a, t.pbufByte a = s.pbufByte a) ∧ t.busy = false ∧ t.frameOk = false ∧ t.signalStrength = 0 ∧ t.reading = 0 ∧
      t.sumHex = 0x3030 ∧ t.checksumCalcHex = 0x3030

/-- R80, I6: inputs that the event of a step does not read make no difference to the step. -/
def Obligations.UnreadInputsAreIgnored : Prop :=
  ∀ (p q : Ports) (s : State), p.rst = q.rst →
    (p.rst = false → p.ev = q.ev ∧ (p.ev = 1 → p.op = q.op ∧ p.arg = q.arg) ∧ (p.ev = 2 → p.sym = q.sym)) →
    step (presenting [.edge p] s) = step (presenting [.edge q] s)

/-! Events. -/

/-- R161: NOP changes nothing, in either phase, and any number of NOPs changes nothing. -/
def Obligations.NopChangesNothing : Prop :=
  decodeEvent 0x0000000#28 = .nop ∧ (∀ s : State, exec .nop s = .next s) ∧
  (∀ (k : Nat) (s : State), run k (presenting (List.replicate k (.edge (portsOfWord 0x0000000#28))) s) = .next s)

/-- R162, R163: a START in either phase leaves exactly the reset registers with RUN, the operation and the argument, and PBUF as it
was; and so does the same START after a reset (R211). -/
def Obligations.StartOpensFromCleared : Prop :=
  decodeEvent 0x4000000#28 = .decode 0 ∧ decodeEvent 0x5000000#28 = .sumbytes 0 ∧
  (∀ arg : BitVec 16, decodeEvent (BitVec.ofNat 28 (0x6000000 + arg.toNat * 256)) = .derivechk arg ∧
    decodeEvent (BitVec.ofNat 28 (0x7000000 + arg.toNat * 256)) = .verify arg) ∧
  ∀ (arg : BitVec 16) (s : State), ∀ p ∈ [(Instr.decode arg, Operation.decode), (.sumbytes arg, .sumBytes),
      (.derivechk arg, .deriveChk), (.verify arg, .verify)],
    exec p.1 s = .next { State.reset with
      phase := .run, opQ := p.2, argQ := arg, pbuf := s.pbuf, input := s.input, readings := s.readings } ∧
    exec p.1 { State.reset with pbuf := s.pbuf, input := s.input, readings := s.readings } = exec p.1 s

/-- R164, R166: with no transaction open, SYM and END change nothing. -/
def Obligations.EventsOutsideATransaction : Prop :=
  ∀ (c : Byte) (s : State), s.phase = .idle → exec (.sym c) s = .next s ∧ exec .endTx s = .next s

/-- R110 to R112: a character of the text of DECODE. -/
def Obligations.DecodeSymbol : Prop :=
  ∀ (c : Byte) (s : State), s.phase = .run → s.opQ = .decode →
    (classify c = .term → exec (.sym c) s = .next { s with tseen := true }) ∧
    (classify c ≠ .term → s.nib = false →
      exec (.sym c) s = .next { s with
        nonhex := s.nonhex || s.tseen || decide (classify c = .other), hi := nibble c, nib := true }) ∧
    (classify c ≠ .term → s.nib = true →
      ∃ t, exec (.sym c) s = .next t ∧
        Committed (BitVec.ofNat 8 (16 * s.hi.toNat + (nibble c).toNat))
          { s with nonhex := s.nonhex || s.tseen || decide (classify c = .other), nib := false } t)

/-- R75, R110 to R112 for the 22 digit rows of the opcode table: a high digit is held, a low digit completes a byte. That a CHAR row
runs as a SYM event is the model's choice (log 7). -/
def Obligations.DigitRowsInDecode : Prop :=
  ∀ row ∈ digitRows, ∀ s : State, s.phase = .run → s.opQ = .decode →
    (s.nib = false → exec row.1 s = .next { s with nonhex := s.nonhex || s.tseen, hi := row.2.2, nib := true }) ∧
    (s.nib = true →
      ∃ t, exec row.1 s = .next t ∧
        Committed (BitVec.ofNat 8 (16 * s.hi.toNat + row.2.2.toNat)) { s with nonhex := s.nonhex || s.tseen, nib := false } t)

/-- R74, R110 for the terminator rows and the default row of the opcode table (log 7). -/
def Obligations.TerminatorAndOtherRowsInDecode : Prop :=
  ∀ (c : Byte) (s : State), s.phase = .run → s.opQ = .decode →
    exec .charLf s = .next { s with tseen := true } ∧ exec .charCr s = .next { s with tseen := true } ∧
    (s.nib = false → exec (.charOther c) s = .next { s with nonhex := true, hi := 0, nib := true }) ∧
    (s.nib = true →
      ∃ t, exec (.charOther c) s = .next t ∧
        Committed (BitVec.ofNat 8 (16 * s.hi.toNat)) { s with nonhex := true, nib := false } t)

/-- R82, R164, R165 for every CHAR row outside DECODE: dropped in IDLE and in DERIVECHK, a byte value in SUMBYTES and VERIFY
(log 7). -/
def Obligations.CharacterRowsOutsideDecode : Prop :=
  ∀ (d : Byte) (s : State),
    ∀ row ∈ digitRows.map (fun r => (r.1, r.2.1)) ++ [(.charLf, 0x0A), (.charCr, 0x0D), (.charOther d, d)],
      (s.phase = .idle → exec row.1 s = .next s) ∧
      (s.phase = .run → s.opQ = .deriveChk → exec row.1 s = .next s) ∧
      (s.phase = .run → s.opQ = .sumBytes ∨ s.opQ = .verify → exec row.1 s = .next { s with acc := s.acc + row.2 })

/-- R135: the word of SUMBYTES, and the operation at START, at each symbol, at END, and its result. -/
def Obligations.SumbytesOperation : Prop :=
  decodeEvent 0x5000000#28 = .sumbytes 0 ∧
  (∀ (arg : BitVec 16) (s : State), ∃ t, exec (.sumbytes arg) s = .next t ∧ t.acc = 0 ∧ t.opQ = .sumBytes ∧ t.phase = .run) ∧
  (∀ (d : Byte) (s : State), s.phase = .run → s.opQ = .sumBytes →
    exec (.sym d) s = .next { s with acc := BitVec.ofNat 8 (s.acc.toNat + d.toNat) } ∧
    exec .endTx s = .next { s with sum := s.acc, rc := 0, cause := 0, phase := .idle, done := true }) ∧
  (∀ (arg : BitVec 16) (bytes : List Byte) (s : State),
    (transaction .sumBytes arg bytes s).sum = Functional.sumBytes bytes ∧ (transaction .sumBytes arg bytes s).rc = 0 ∧
    (transaction .sumBytes arg bytes s).sumHex = hex2 (Functional.sumBytes bytes) ∧
    (transaction .sumBytes arg bytes s).verdict = false ∧ (transaction .sumBytes arg bytes s).pbuf = s.pbuf)

/-- R136: the word of DERIVECHK, and the operation at START, at each symbol, at END in and out of its domain, and its result. -/
def Obligations.DerivechkOperation : Prop :=
  (∀ arg : BitVec 16, decodeEvent (BitVec.ofNat 28 (0x6000000 + arg.toNat * 256)) = .derivechk arg) ∧
  (∀ (arg : BitVec 16) (s : State),
    ∃ t, exec (.derivechk arg) s = .next t ∧ t.argQ = arg ∧ t.opQ = .deriveChk ∧ t.phase = .run ∧ t.rc = 0) ∧
  (∀ (d : Byte) (s : State), s.phase = .run → s.opQ = .deriveChk →
    exec (.sym d) s = .next s ∧
    (0xFF < s.argQ.toNat → exec .endTx s = .next (failed 2 6 s)) ∧
    (s.argQ.toNat ≤ 0xFF →
      exec .endTx s = .next { s with
        checksumCalc := BitVec.ofNat 8 (0xFF - s.argQ.toNat), rc := 0, cause := 0, phase := .idle, done := true })) ∧
  (∀ (arg : BitVec 16) (syms : List Byte) (s : State),
    (transaction .deriveChk arg syms s).pbuf = s.pbuf ∧
    (transaction .deriveChk arg syms s).checksumCalcHex = hex2 (transaction .deriveChk arg syms s).checksumCalc ∧
    (0xFF < arg.toNat →
      (transaction .deriveChk arg syms s).rc = 2 ∧ (transaction .deriveChk arg syms s).cause = 6 ∧
      (transaction .deriveChk arg syms s).checksumCalc = 0) ∧
    (arg.toNat ≤ 0xFF →
      (transaction .deriveChk arg syms s).rc = 0 ∧
      some (transaction .deriveChk arg syms s).checksumCalc = Functional.deriveChecksum arg.toNat))

/-- R137: the word of VERIFY, and the operation at START, at each symbol, at END, and its result. -/
def Obligations.VerifyOperation : Prop :=
  (∀ k : Byte, decodeEvent (BitVec.ofNat 28 (0x7000000 + k.toNat * 256)) = .verify (k.setWidth 16)) ∧
  (∀ (arg : BitVec 16) (s : State),
    ∃ t, exec (.verify arg) s = .next t ∧ t.acc = 0 ∧ t.argQ = arg ∧ t.opQ = .verify ∧ t.phase = .run) ∧
  (∀ (d : Byte) (s : State), s.phase = .run → s.opQ = .verify →
    exec (.sym d) s = .next { s with acc := BitVec.ofNat 8 (s.acc.toNat + d.toNat) } ∧
    exec .endTx s = .next { s with
      sum := BitVec.ofNat 8 (s.acc.toNat + s.argQ.toNat % 256),
      verdict := decide ((s.acc.toNat + s.argQ.toNat % 256) % 256 = 0xFF), rc := 0, cause := 0, phase := .idle, done := true }) ∧
  (∀ (arg : BitVec 16) (bytes : List Byte) (s : State),
    (transaction .verify arg bytes s).verdict = Functional.verify bytes (arg.extractLsb' 0 8) ∧
    (transaction .verify arg bytes s).sum = Functional.sumBytes (bytes ++ [arg.extractLsb' 0 8]) ∧
    (transaction .verify arg bytes s).rc = 0 ∧ (transaction .verify arg bytes s).pbuf = s.pbuf)

/-- R113 to R115: the checks at an END of DECODE in their order, the error publication of each, and the success publication. -/
def Obligations.EndOfDecode : Prop :=
  ∀ s : State, s.phase = .run → s.opQ = .decode →
    (s.nonhex = true → exec .endTx s = .next (failed 1 1 s)) ∧
    (s.nonhex = false → s.nib = true → exec .endTx s = .next (failed 1 2 s)) ∧
    (s.nonhex = false → s.nib = false → s.bidx.toNat < 4 → exec .endTx s = .next (failed 1 3 s)) ∧
    (s.nonhex = false → s.nib = false → 4 ≤ s.bidx.toNat → s.startDelimiter ≠ 0x7E → exec .endTx s = .next (failed 1 4 s)) ∧
    (s.nonhex = false → s.nib = false → 4 ≤ s.bidx.toNat → s.startDelimiter = 0x7E → s.length.toNat ≠ s.bidx.toNat - 4 →
      exec .endTx s = .next (failed 1 5 s)) ∧
    (s.nonhex = false → s.nib = false → 4 ≤ s.bidx.toNat → s.startDelimiter = 0x7E → s.length.toNat = s.bidx.toNat - 4 →
      ∃ t, exec .endTx s = .next t ∧ FramePublished s t)

/-- R186: whatever END publishes an error, the publication is the one R186 describes, with the codes of R181. -/
def Obligations.ErrorPublication : Prop :=
  ∀ s t : State, s.phase = .run → exec .endTx s = .next t → t.rc ≠ 0 →
    t = failed t.rc t.cause s ∧
    ((s.opQ = .decode ∧ t.rc = 1 ∧ 1 ≤ t.cause.toNat ∧ t.cause.toNat ≤ 5) ∨
     (s.opQ = .deriveChk ∧ 0xFF < s.argQ.toNat ∧ t.rc = 2 ∧ t.cause = 6)) ∧
    t.frameOk = false ∧ t.signalStrength = 0 ∧ t.reading = 0

/-- R167, R187: an event that changes the code to an error is an END, in RUN, of DECODE or of DERIVECHK. -/
def Obligations.ErrorsOnlyAtEnd : Prop :=
  ∀ (w : EventWord) (s t : State), exec (decodeEvent w) s = .next t → t.rc ≠ 0 → (t.rc ≠ s.rc ∨ t.cause ≠ s.cause) →
    decodeEvent w = .endTx ∧ s.phase = .run ∧ ((s.opQ = .decode ∧ t.rc = 1) ∨ (s.opQ = .deriveChk ∧ t.rc = 2))

/-- R42, the frames of the events: what a START, a SYM and an END leave alone. -/
def Obligations.WhoWritesWhat : Prop :=
  (∀ (arg : BitVec 16) (s t : State), ∀ i ∈ [Instr.decode arg, .sumbytes arg, .derivechk arg, .verify arg],
    exec i s = .next t → (∀ a, readCell t.pbuf a = readCell s.pbuf a) ∧ t.input = s.input ∧ t.readings = s.readings) ∧
  (∀ (c : Byte) (s t : State), exec (.sym c) s = .next t →
    t.phase = s.phase ∧ t.opQ = s.opQ ∧ t.argQ = s.argQ ∧ t.payloadCount = s.payloadCount ∧ t.verdict = s.verdict ∧
    t.sum = s.sum ∧ t.sumPayload = s.sumPayload ∧ t.checksumCalc = s.checksumCalc ∧ t.rc = s.rc ∧ t.cause = s.cause ∧
    t.done = s.done ∧ t.input = s.input ∧ t.readings = s.readings ∧
    (∀ a, pbufTarget s.bidx.toNat ≠ some a → readCell t.pbuf a = readCell s.pbuf a) ∧
    (s.phase = .idle ∨ s.opQ ≠ .decode → t = { s with acc := t.acc }) ∧
    (s.phase = .idle ∨ s.opQ = .deriveChk → t = s)) ∧
  (∀ s t : State, exec .endTx s = .next t →
    t.opQ = s.opQ ∧ t.argQ = s.argQ ∧ t.nib = s.nib ∧ t.hi = s.hi ∧ t.bidx = s.bidx ∧ t.tseen = s.tseen ∧
    t.nonhex = s.nonhex ∧ t.acc = s.acc ∧ t.input = s.input ∧ t.readings = s.readings ∧
    (∀ a, readCell t.pbuf a = readCell s.pbuf a))

/-- R52, R60: an event that changes a PBUF cell is the low digit of a byte of DECODE, the cell is the byte's own, and the cell gets
the byte. -/
def Obligations.OnlyCommitsWritePbuf : Prop :=
  ∀ (w : EventWord) (s t : State) (a : Nat), exec (decodeEvent w) s = .next t → readCell t.pbuf a ≠ readCell s.pbuf a →
    ∃ c : Byte, decodeEvent w = .sym c ∧ s.phase = .run ∧ s.opQ = .decode ∧ s.nib = true ∧ classify c ≠ .term ∧
      s.bidx.toNat = a + 3 ∧ a < 65536 ∧ readCell t.pbuf a = some (BitVec.ofNat 8 (16 * s.hi.toNat + (nibble c).toNat))

/-! Frames, pseudo-operations and whole transactions. -/

/-- R103 to R108, R52: a well-formed frame decodes, whatever its checksum, to the record of its bytes; its bytes from index 3 on
are in PBUF, and no other cell changes. That the FRAME row runs as a whole DECODE transaction is the model's choice (log 8). -/
def Obligations.FrameRowDelivers : Prop :=
  ∀ (bytes : List Byte) (s : State), frameShape bytes = true →
    ∃ t, exec (.frame bytes) s = .next t ∧ t.results = Functional.frameResult bytes ∧ t.phase = .idle ∧ t.opQ = .decode ∧
      t.input = s.input ∧ t.readings = s.readings ∧
      (∀ a, a + 3 < bytes.length → readCell t.pbuf a = bytes[a + 3]?) ∧
      (∀ a, bytes.length ≤ a + 3 → readCell t.pbuf a = readCell s.pbuf a)

/-- R88, R141: GENCHK leaves the checksum that its bytes verify with, and never an error; PBUF stays. That it is one step is the
model's choice (log 9). -/
def Obligations.GenchkGenerates : Prop :=
  ∀ (bytes : List Byte) (s : State),
    ∃ t, exec (.genchk bytes) s = .next t ∧ t.checksumCalc.toNat = 0xFF - (Functional.sumBytes bytes).toNat ∧
      Functional.verify bytes t.checksumCalc = true ∧ t.rc = 0 ∧ t.cause = 0 ∧ t.sum = 0 ∧ t.verdict = false ∧
      t.done = true ∧ t.phase = .idle ∧ t.opQ = .deriveChk ∧ t.argQ = (Functional.sumBytes bytes).setWidth 16 ∧
      NoFrameData t ∧ t.acc = 0 ∧
      (∀ a, readCell t.pbuf a = readCell s.pbuf a) ∧ t.input = s.input ∧ t.readings = s.readings

/-- R88, R101: DECODELN gives the result of DECODE of the text without the newline. Its one step is the model's choice (log 9). -/
def Obligations.DecodelnAgreesWithDecode : Prop :=
  ∀ (text : List Byte) (s : State),
    ∃ t, exec (.decodeln text) s = .next t ∧ t.results = (transaction .decode 0 text s).results ∧
      t.results = Functional.decodeText text ∧ t.pbuf = (transaction .decode 0 text s).pbuf ∧ t.phase = .idle ∧
      t.opQ = .decode ∧ t.argQ = 0 ∧ t.input = s.input ∧ t.readings = s.readings ∧
      (∀ a, text.length / 2 ≤ a + 3 → readCell t.pbuf a = readCell s.pbuf a)

/-- R36, R88: CHECK gives the result of DECODE, and the host has taken `reading`. The list of readings taken is the model's choice
(log 13), and so is the one step (log 9). -/
def Obligations.CheckTakesReading : Prop :=
  ∀ (text : List Byte) (s : State),
    ∃ t, exec (.check text) s = .next t ∧ t.results = Functional.decodeText text ∧ t.reading = Functional.readingOf text ∧
      t.readings = s.readings ++ [Functional.readingOf text] ∧ t.phase = .idle ∧ t.opQ = .decode ∧ t.argQ = 0 ∧
      t.input = s.input ∧ (∀ a, text.length / 2 ≤ a + 3 → readCell t.pbuf a = readCell s.pbuf a)

/-- R73, R87, R88: every instruction does in one step what the steps of its event words do. CHECK adds the reading that the host
takes. The tagged forms and the one step are the model's choice (logs 7, 8, 9, 13). -/
def Obligations.InstructionIsItsEvents : Prop :=
  ∀ (i : Instr) (s : State), i.WellFormed = true →
    ∃ t, exec i s = .next t ∧
      run (eventWords i).length (presenting (wordEdges (eventWords i)) s) = .next { t with readings := s.readings } ∧
      ((∀ text, i ≠ .check text) → t.readings = s.readings)

/-- R116, R135 to R137, R168: for any START, any symbols and END, with any NOPs among them, from any state, the machine ends in
IDLE with the result that the functional form gives for the operation, the argument and the symbols alone. -/
def Obligations.TransactionAgreesWithFunction : Prop :=
  ∀ (op : Operation) (arg : BitVec 16) (syms : List Byte) (ws : List EventWord) (s : State),
    ws.filter isActive = transactionWords op arg syms →
    ∃ t, run ws.length (presenting (wordEdges ws) s) = .next t ∧ t.results = Functional.result op arg syms ∧ t.phase = .idle ∧
      t.opQ = op ∧ t.argQ = arg ∧ t.input = s.input ∧ t.readings = s.readings

/-- R190: a batch of texts leaves the readings of the texts in their order, a malformed or failed frame among them as 0 and without
effect on the others. The list of readings is the model's choice (log 13). -/
def Obligations.BatchReadings : Prop :=
  ∀ (texts : List (List Byte)) (s : State),
    ∃ t, run texts.length (presenting (texts.map .check) s) = .next t ∧
      t.readings = s.readings ++ texts.map Functional.readingOf ∧ t.input = s.input

/-- R39: from a state with no transaction open, any NOPs, SYMs and ENDs leave every register and every cell. -/
def Obligations.ResultsStableUntilStart : Prop :=
  ∀ (ws : List EventWord) (s : State), s.phase = .idle → (∀ w ∈ ws, w.extractLsb' 26 2 ≠ 1#2) →
    run ws.length (presenting (wordEdges ws) s) = .next s

/-! Invariants. -/

/-- R51: every step keeps PBUF in its canonical form, with addresses below 65536. -/
def Obligations.StepKeepsMemoryForm : Prop :=
  ∀ s t : State, memoryWf s.pbuf = true → step s = .next t → memoryWf t.pbuf = true

/-- R29, R31, R32, R35, R42, R115, R181 to R186, R191, R216: every step keeps the register invariant. -/
def Obligations.StepKeepsBlockInv : Prop := ∀ s t : State, BlockInv s → step s = .next t → BlockInv t

/-- R27, R52, R112: every step keeps `acc` the sum of the PBUF bytes of the frame, and `checksum` the last of them. -/
def Obligations.StepKeepsPayloadInv : Prop := ∀ s t : State, PayloadInv s → step s = .next t → PayloadInv t

/-- The three invariants hold at reset. -/
def Obligations.InvariantsAtReset : Prop :=
  memoryWf State.reset.pbuf = true ∧ BlockInv State.reset ∧ PayloadInv State.reset

/-- R31, R32, R54, R108: in a state of the invariants, a delivered frame's `payload_bytes` have the published sum, and the verdict
is the verification of `payload_bytes` against `checksum`, which is `checksum_calc` exactly when it is true. -/
def Obligations.DeliveredFrameChecksum : Prop :=
  ∀ s : State, BlockInv s → PayloadInv s → s.frameOk = true →
    s.payloadBytes.length = s.length.toNat ∧ Functional.sumBytes s.payloadBytes = s.sumPayload ∧
    s.verdict = Functional.verify s.payloadBytes s.checksum ∧ (s.verdict = true ↔ s.checksumCalc = s.checksum) ∧
    s.pbufByte s.payloadCount.toNat = s.checksum

/-! Outputs and the checksum laws. -/

/-- R34 to R37: the derived outputs; R53: the read port shows the byte stored at its address, and is `pbufByte` everywhere; R219: every
output port shows the register or the derived output of its name. -/
def Obligations.DerivedOutputs : Prop :=
  ∀ s : State,
    (s.busy = true ↔ s.phase = .run) ∧ (s.frameOk = true ↔ s.done = true ∧ s.rc = 0 ∧ opCode s.opQ = 0) ∧
    s.signalStrength.toInt = -(s.response.toNat : Int) ∧ s.signalStrength.toNat = (512 - s.response.toNat) % 512 ∧
    (BlockInv s → s.fvalid.getLsbD 6 = false → s.response = 0 ∧ s.signalStrength = 0) ∧
    (s.frameOk = true → s.verdict = true → s.fvalid.getLsbD 6 = true → s.reading = s.signalStrength) ∧
    (¬ (s.frameOk = true ∧ s.verdict = true ∧ s.fvalid.getLsbD 6 = true) → s.reading = 0) ∧
    s.sumHex = hex2 s.sum ∧ s.checksumCalcHex = hex2 s.checksumCalc ∧
    (∀ a : BitVec 16, s.pbData a = s.pbufByte a.toNat ∧ ∀ b, readCell s.pbuf a.toNat = some b → s.pbData a = b) ∧
    (s.outputs.busy = s.busy ∧ s.outputs.done = s.done ∧ s.outputs.frameOk = s.frameOk ∧ s.outputs.rc = s.rc ∧
      s.outputs.cause = s.cause ∧ s.outputs.opQ = opCode s.opQ ∧ s.outputs.argQ = s.argQ) ∧
    (s.outputs.startDelimiter = s.startDelimiter ∧ s.outputs.frameType = s.frameType ∧ s.outputs.frameId = s.frameId ∧
      s.outputs.status = s.status ∧ s.outputs.response = s.response ∧ s.outputs.checksum = s.checksum ∧
      s.outputs.length = s.length ∧ s.outputs.destinationAddress16 = s.destinationAddress16 ∧
      s.outputs.atCommand = s.atCommand ∧ s.outputs.destinationAddress64 = s.destinationAddress64) ∧
    (s.outputs.fvalid = s.fvalid ∧ s.outputs.payloadCount = s.payloadCount ∧ s.outputs.verdict = s.verdict ∧
      s.outputs.sum = s.sum ∧ s.outputs.sumPayload = s.sumPayload ∧ s.outputs.checksumCalc = s.checksumCalc ∧
      s.outputs.signalStrength = s.signalStrength ∧ s.outputs.reading = s.reading ∧ s.outputs.sumHex = s.sumHex ∧
      s.outputs.checksumCalcHex = s.checksumCalcHex)

/-- R134 laws 1, 2, 7: the sum does not depend on order, adds over concatenation, and is always in DERIVECHK's domain. -/
def Obligations.SumLaws : Prop :=
  (∀ x y : List Byte, x.Perm y → Functional.sumBytes x = Functional.sumBytes y) ∧
  (∀ x y : List Byte,
    (Functional.sumBytes (x ++ y)).toNat = ((Functional.sumBytes x).toNat + (Functional.sumBytes y).toNat) % 256) ∧
  (∀ x : List Byte, Functional.deriveChecksum (Functional.sumBytes x).toNat ≠ none)

/-- R134 law 3: `deriveChecksum` is defined on all of 0 to 255, is `0xFF - x` there (R131), is an involution and has no fixed point;
above, it fails (R131). -/
def Obligations.ComplementLaws : Prop :=
  (∀ x : Byte, ∃ y : Byte, Functional.deriveChecksum x.toNat = some y ∧ y.toNat = 0xFF - x.toNat ∧
    Functional.deriveChecksum y.toNat = some x ∧ x ≠ y) ∧
  (∀ n : Nat, 0xFF < n → Functional.deriveChecksum n = none)

/-- R134 laws 4 to 6: a checksum verifies exactly when it is the derived one, and a change of one byte never goes unseen. -/
def Obligations.VerifyLaws : Prop :=
  (∀ (p : List Byte) (k : Byte),
    Functional.verify p k = true ↔ Functional.deriveChecksum (Functional.sumBytes p).toNat = some k) ∧
  (∀ (x y : List Byte) (b b' k : Byte), b ≠ b' →
    ¬ (Functional.verify (x ++ b :: y) k = true ∧ Functional.verify (x ++ b' :: y) k = true))
end

