-- ==== Sys2Proof/Laws/Memory.lean ====
section
/-! SUPPORT. The laws of PBUF: read after write, canonical form, and the store of a frame byte. -/

namespace Sys2Proof.Machine

@[simp] theorem readCell_nil (a : Nat) : readCell [] a = none := rfl

theorem memoryFrom_mono {lo lo' : Nat} (h : lo' ≤ lo) (m : Memory) (hm : memoryFrom lo m = true) : memoryFrom lo' m = true := by
  cases m with
  | nil => rfl
  | cons e rest =>
    obtain ⟨k, v⟩ := e
    simp only [memoryFrom, Bool.and_eq_true, decide_eq_true_eq] at hm ⊢
    exact ⟨⟨by omega, hm.1.2⟩, hm.2⟩

/-- A read below the bound of a canonical memory finds nothing. -/
theorem readCell_below {lo a : Nat} (m : Memory) (hm : memoryFrom lo m = true) (h : a < lo) : readCell m a = none := by
  cases m with
  | nil => rfl
  | cons e rest =>
    obtain ⟨k, v⟩ := e
    simp only [memoryFrom, Bool.and_eq_true, decide_eq_true_eq] at hm
    simp only [readCell]
    rw [if_pos (by omega)]

theorem readCell_writeCell_same (m : Memory) (a : Nat) (b : Byte) : readCell (writeCell m a b) a = some b := by
  induction m with
  | nil => simp [writeCell, readCell]
  | cons e rest ih =>
    obtain ⟨k, v⟩ := e
    by_cases h1 : a < k
    · simp [writeCell, readCell, h1]
    · by_cases h2 : a = k
      · simp [writeCell, readCell, h2]
      · simp [writeCell, readCell, h1, h2, ih]

theorem readCell_writeCell_other {a a' : Nat} (h : a' ≠ a) (m : Memory) (b : Byte) :
    readCell (writeCell m a b) a' = readCell m a' := by
  induction m with
  | nil =>
    simp only [writeCell, readCell, if_neg h, ite_self]
  | cons e rest ih =>
    obtain ⟨k, v⟩ := e
    by_cases h1 : a < k
    · simp only [writeCell, if_pos h1, readCell]
      by_cases h3 : a' < a
      · rw [if_pos h3, if_pos (show a' < k by omega)]
      · rw [if_neg h3, if_neg h]
    · by_cases h2 : a = k
      · subst h2
        simp only [writeCell, lt_irrefl, if_false, if_true, readCell, if_neg h]
      · simp only [writeCell, if_neg h1, if_neg h2, readCell, ih]

theorem memoryFrom_writeCell {lo : Nat} (m : Memory) (a : Nat) (b : Byte) (hm : memoryFrom lo m = true) (hlo : lo ≤ a)
    (ha : a < Config.pbufSize) : memoryFrom lo (writeCell m a b) = true := by
  induction m generalizing lo with
  | nil => simp only [writeCell, memoryFrom, Bool.and_eq_true, decide_eq_true_eq]; exact ⟨⟨hlo, ha⟩, trivial⟩
  | cons e rest ih =>
    obtain ⟨k, v⟩ := e
    simp only [memoryFrom, Bool.and_eq_true, decide_eq_true_eq] at hm
    by_cases h1 : a < k
    · simp only [writeCell, if_pos h1, memoryFrom, Bool.and_eq_true, decide_eq_true_eq]
      exact ⟨⟨hlo, ha⟩, ⟨by omega, hm.1.2⟩, hm.2⟩
    · by_cases h2 : a = k
      · subst h2
        simp only [writeCell, lt_irrefl, if_false, if_true, memoryFrom, Bool.and_eq_true, decide_eq_true_eq]
        exact hm
      · simp only [writeCell, if_neg h1, if_neg h2, memoryFrom, Bool.and_eq_true, decide_eq_true_eq]
        exact ⟨hm.1, ih hm.2 (by omega)⟩

/-- A write keeps the canonical form. -/
theorem memoryWf_writeCell (m : Memory) (a : Nat) (b : Byte) (hm : memoryWf m = true) (ha : a < Config.pbufSize) :
    memoryWf (writeCell m a b) = true := memoryFrom_writeCell m a b hm (Nat.zero_le _) ha

theorem pbufTarget_some {i a : Nat} : pbufTarget i = some a ↔ 3 ≤ i ∧ i ≤ 65538 ∧ a + 3 = i := by
  unfold pbufTarget
  split
  · rename_i h
    simp only [Option.some.injEq, Config.payloadStart]
    omega
  · simp only [reduceCtorEq, false_iff]
    omega

theorem pbufTarget_none {i : Nat} : pbufTarget i = none ↔ i < 3 ∨ 65538 < i := by
  unfold pbufTarget
  split
  · simp only [reduceCtorEq, false_iff]
    omega
  · simp only [true_iff]
    omega

/-- The store of a frame byte keeps the canonical form. -/
theorem memoryWf_storeByte (i : Nat) (b : Byte) (m : Memory) (hm : memoryWf m = true) : memoryWf (storeByte i b m) = true := by
  unfold storeByte
  cases h : pbufTarget i with
  | none => exact hm
  | some a =>
    have := pbufTarget_some.mp h
    exact memoryWf_writeCell m a b hm (by simp only [Config.pbufSize]; omega)

theorem storeByte_of_none {i : Nat} (h : pbufTarget i = none) (b : Byte) (m : Memory) : storeByte i b m = m := by
  simp [storeByte, h]

theorem storeByte_of_some {i a : Nat} (h : pbufTarget i = some a) (b : Byte) (m : Memory) : storeByte i b m = writeCell m a b := by
  simp [storeByte, h]

/-- A cell other than the target reads as before. -/
theorem readCell_storeByte_other {i a' : Nat} (h : pbufTarget i ≠ some a') (b : Byte) (m : Memory) :
    readCell (storeByte i b m) a' = readCell m a' := by
  cases ht : pbufTarget i with
  | none => rw [storeByte_of_none ht]
  | some a =>
    rw [storeByte_of_some ht, readCell_writeCell_other]
    rintro rfl
    exact h ht

theorem readCell_storeByte_same {i a : Nat} (h : pbufTarget i = some a) (b : Byte) (m : Memory) :
    readCell (storeByte i b m) a = some b := by
  rw [storeByte_of_some h, readCell_writeCell_same]

end Sys2Proof.Machine
end

