-- ==== Sys2Proof/Laws/Operands.lean ====
section
/-! SUPPORT. The laws of the operand forms: byte slices of a register, the byte counter, characters and digits. -/

namespace Sys2Proof.Machine

theorem setByte_getLsbD {w : Nat} (v : BitVec w) (k : Nat) (b : Byte) (j : Nat) (hj : j < w) :
    (setByte v k b).getLsbD j = if 8 * k ≤ j ∧ j < 8 * k + 8 then b.getLsbD (j - 8 * k) else v.getLsbD j := by
  have hff : ∀ n, (0xFF#8).getLsbD n = decide (n < 8) := by
    intro n
    by_cases h : n < 8
    · interval_cases n <;> rfl
    · rw [BitVec.getLsbD_of_ge _ _ (by omega)]; simp [h]
  unfold setByte
  simp only [BitVec.getLsbD_or, BitVec.getLsbD_and, BitVec.getLsbD_not, BitVec.getLsbD_shiftLeft, BitVec.getLsbD_setWidth, hff, hj,
    decide_true, Bool.true_and]
  by_cases h1 : j < 8 * k
  · rw [if_neg (by omega)]; simp [h1]
  · have h3 : j - 8 * k < w := by omega
    by_cases h2 : j < 8 * k + 8
    · rw [if_pos (by omega)]
      have : j - 8 * k < 8 := by omega
      simp [h1, h3, this]
    · rw [if_neg (by omega)]
      have h4 : ¬ j - 8 * k < 8 := by omega
      have h5 : b.getLsbD (j - 8 * k) = false := BitVec.getLsbD_of_ge _ _ (by omega)
      simp [h1, h3, h4, h5]

/-- The byte just set reads back. -/
theorem setByte_byte_same {w : Nat} (v : BitVec w) (k : Nat) (b : Byte) (hk : 8 * k + 8 ≤ w) :
    (setByte v k b).extractLsb' (8 * k) 8 = b := by
  apply BitVec.eq_of_getLsbD_eq
  intro j hj
  rw [BitVec.getLsbD_extractLsb', setByte_getLsbD v k b _ (by omega), if_pos (by omega)]
  simp [hj]

/-- Every other byte of the register stays. -/
theorem setByte_byte_other {w : Nat} (v : BitVec w) (k k' : Nat) (b : Byte) (h : k' ≠ k) (hk : 8 * k' + 8 ≤ w) :
    (setByte v k b).extractLsb' (8 * k') 8 = v.extractLsb' (8 * k') 8 := by
  apply BitVec.eq_of_getLsbD_eq
  intro j hj
  rw [BitVec.getLsbD_extractLsb', BitVec.getLsbD_extractLsb', setByte_getLsbD v k b _ (by omega), if_neg (by omega)]

theorem placeByte_outside {w lo hi i : Nat} (h : i < lo ∨ hi < i) (v : BitVec w) (b : Byte) : placeByte lo hi i v b = v := by
  unfold placeByte
  rw [if_neg (by omega)]

theorem placeByte_inside {w lo hi i : Nat} (h : lo ≤ i ∧ i ≤ hi) (v : BitVec w) (b : Byte) :
    placeByte lo hi i v b = setByte v (hi - i) b := by
  unfold placeByte
  rw [if_pos h]

/-- The byte counter counts up to its greatest value and stays there. -/
theorem nextIndex_toNat (i : BitVec 17) : (nextIndex i).toNat = min (i.toNat + 1) 131071 := by
  unfold nextIndex
  rw [BitVec.toNat_ofNat, Config.bidxMax]
  have := i.isLt
  omega

theorem assembleByte_toNat (h l : Nibble) : (assembleByte h l).toNat = 16 * h.toNat + l.toNat := by
  unfold assembleByte
  rw [BitVec.toNat_append, Nat.shiftLeft_eq, ← Nat.shiftLeft_eq, ← Nat.shiftLeft_add_eq_or_of_lt l.isLt, Nat.shiftLeft_eq]
  omega

theorem complement_toNat (x : Byte) : (complement x).toNat = 255 - x.toNat := by
  unfold complement
  have := x.isLt
  rw [BitVec.toNat_sub]
  simp only [BitVec.reduceToNat]
  omega

theorem hexText_length (v : Byte) : (hexText v).length = 2 := rfl

theorem frameText_length (bytes : List Byte) : (frameText bytes).length = 2 * bytes.length := by
  induction bytes with
  | nil => rfl
  | cons b rest ih => simp only [frameText, List.flatMap_cons, List.length_append, hexText_length] at ih ⊢; rw [ih]; simp; omega

theorem classify_digit (d : Nibble) : classify (digit d) = .hex := by revert d; decide

theorem nibble_digit (d : Nibble) : nibble (digit d) = d := by revert d; decide

theorem nibble_of_not_hex (c : Byte) (h : classify c ≠ .hex) : nibble c = 0 := by
  unfold classify at h
  unfold nibble
  repeat (first | split at h | split | rfl | contradiction | omega)

/-! Flags. -/

/-- The verdict is true exactly of the target sum (R31). -/
theorem verdictOf_eq_true_iff (x : Byte) : verdictOf x = true ↔ x = 0xFF := by
  unfold verdictOf
  exact decide_eq_true_iff

/-- The valid bit of `response` is set by frame byte 18 and by no other (R29, R112). -/
theorem fvalidAfter_response (i : Nat) (v : BitVec 7) :
    (fvalidAfter i v).getLsbD 6 = (v.getLsbD 6 || decide (i = 18)) := by
  unfold fvalidAfter
  split_ifs <;> simp_all

/-- A field that is absent reads as zero, a valid one as it is (R114). -/
@[simp] theorem validOrZero_zero {w : Nat} (v : BitVec 7) (k : Nat) : validOrZero v k (0 : BitVec w) = 0 := by
  unfold validOrZero
  split <;> rfl

end Sys2Proof.Machine
end

