-- ==== Sys2Proof/Laws/State.lean ====
section
/-! SUPPORT. One lemma per field per named update of State, true by rfl: what each shared operation leaves in each register. -/

namespace Sys2Proof.Machine

variable (s : State) (op : Operation) (arg : BitVec 16) (c : Cause) (b d : Byte)

@[simp] theorem clearWorking_phase : (clearWorking s).phase = s.phase := rfl
@[simp] theorem clearWorking_opQ : (clearWorking s).opQ = s.opQ := rfl
@[simp] theorem clearWorking_argQ : (clearWorking s).argQ = s.argQ := rfl
@[simp] theorem clearWorking_nib : (clearWorking s).nib = false := rfl
@[simp] theorem clearWorking_hi : (clearWorking s).hi = 0 := rfl
@[simp] theorem clearWorking_bidx : (clearWorking s).bidx = 0 := rfl
@[simp] theorem clearWorking_tseen : (clearWorking s).tseen = false := rfl
@[simp] theorem clearWorking_nonhex : (clearWorking s).nonhex = false := rfl
@[simp] theorem clearWorking_acc : (clearWorking s).acc = 0 := rfl
@[simp] theorem clearWorking_startDelimiter : (clearWorking s).startDelimiter = s.startDelimiter := rfl
@[simp] theorem clearWorking_length : (clearWorking s).length = s.length := rfl
@[simp] theorem clearWorking_frameType : (clearWorking s).frameType = s.frameType := rfl
@[simp] theorem clearWorking_frameId : (clearWorking s).frameId = s.frameId := rfl
@[simp] theorem clearWorking_destinationAddress64 : (clearWorking s).destinationAddress64 = s.destinationAddress64 := rfl
@[simp] theorem clearWorking_destinationAddress16 : (clearWorking s).destinationAddress16 = s.destinationAddress16 := rfl
@[simp] theorem clearWorking_atCommand : (clearWorking s).atCommand = s.atCommand := rfl
@[simp] theorem clearWorking_status : (clearWorking s).status = s.status := rfl
@[simp] theorem clearWorking_response : (clearWorking s).response = s.response := rfl
@[simp] theorem clearWorking_checksum : (clearWorking s).checksum = s.checksum := rfl
@[simp] theorem clearWorking_fvalid : (clearWorking s).fvalid = s.fvalid := rfl
@[simp] theorem clearWorking_payloadCount : (clearWorking s).payloadCount = s.payloadCount := rfl
@[simp] theorem clearWorking_verdict : (clearWorking s).verdict = s.verdict := rfl
@[simp] theorem clearWorking_sum : (clearWorking s).sum = s.sum := rfl
@[simp] theorem clearWorking_sumPayload : (clearWorking s).sumPayload = s.sumPayload := rfl
@[simp] theorem clearWorking_checksumCalc : (clearWorking s).checksumCalc = s.checksumCalc := rfl
@[simp] theorem clearWorking_rc : (clearWorking s).rc = s.rc := rfl
@[simp] theorem clearWorking_cause : (clearWorking s).cause = s.cause := rfl
@[simp] theorem clearWorking_done : (clearWorking s).done = s.done := rfl
@[simp] theorem clearWorking_pbuf : (clearWorking s).pbuf = s.pbuf := rfl
@[simp] theorem clearWorking_input : (clearWorking s).input = s.input := rfl
@[simp] theorem clearWorking_readings : (clearWorking s).readings = s.readings := rfl

@[simp] theorem clearResults_phase : (clearResults s).phase = s.phase := rfl
@[simp] theorem clearResults_opQ : (clearResults s).opQ = s.opQ := rfl
@[simp] theorem clearResults_argQ : (clearResults s).argQ = s.argQ := rfl
@[simp] theorem clearResults_nib : (clearResults s).nib = s.nib := rfl
@[simp] theorem clearResults_hi : (clearResults s).hi = s.hi := rfl
@[simp] theorem clearResults_bidx : (clearResults s).bidx = s.bidx := rfl
@[simp] theorem clearResults_tseen : (clearResults s).tseen = s.tseen := rfl
@[simp] theorem clearResults_nonhex : (clearResults s).nonhex = s.nonhex := rfl
@[simp] theorem clearResults_acc : (clearResults s).acc = s.acc := rfl
@[simp] theorem clearResults_startDelimiter : (clearResults s).startDelimiter = 0 := rfl
@[simp] theorem clearResults_length : (clearResults s).length = 0 := rfl
@[simp] theorem clearResults_frameType : (clearResults s).frameType = 0 := rfl
@[simp] theorem clearResults_frameId : (clearResults s).frameId = 0 := rfl
@[simp] theorem clearResults_destinationAddress64 : (clearResults s).destinationAddress64 = 0 := rfl
@[simp] theorem clearResults_destinationAddress16 : (clearResults s).destinationAddress16 = 0 := rfl
@[simp] theorem clearResults_atCommand : (clearResults s).atCommand = 0 := rfl
@[simp] theorem clearResults_status : (clearResults s).status = 0 := rfl
@[simp] theorem clearResults_response : (clearResults s).response = 0 := rfl
@[simp] theorem clearResults_checksum : (clearResults s).checksum = 0 := rfl
@[simp] theorem clearResults_fvalid : (clearResults s).fvalid = 0 := rfl
@[simp] theorem clearResults_payloadCount : (clearResults s).payloadCount = 0 := rfl
@[simp] theorem clearResults_verdict : (clearResults s).verdict = false := rfl
@[simp] theorem clearResults_sum : (clearResults s).sum = 0 := rfl
@[simp] theorem clearResults_sumPayload : (clearResults s).sumPayload = 0 := rfl
@[simp] theorem clearResults_checksumCalc : (clearResults s).checksumCalc = 0 := rfl
@[simp] theorem clearResults_rc : (clearResults s).rc = s.rc := rfl
@[simp] theorem clearResults_cause : (clearResults s).cause = s.cause := rfl
@[simp] theorem clearResults_done : (clearResults s).done = s.done := rfl
@[simp] theorem clearResults_pbuf : (clearResults s).pbuf = s.pbuf := rfl
@[simp] theorem clearResults_input : (clearResults s).input = s.input := rfl
@[simp] theorem clearResults_readings : (clearResults s).readings = s.readings := rfl

@[simp] theorem openTransaction_phase : (openTransaction op arg s).phase = .run := rfl
@[simp] theorem openTransaction_opQ : (openTransaction op arg s).opQ = op := rfl
@[simp] theorem openTransaction_argQ : (openTransaction op arg s).argQ = arg := rfl
@[simp] theorem openTransaction_nib : (openTransaction op arg s).nib = false := rfl
@[simp] theorem openTransaction_hi : (openTransaction op arg s).hi = 0 := rfl
@[simp] theorem openTransaction_bidx : (openTransaction op arg s).bidx = 0 := rfl
@[simp] theorem openTransaction_tseen : (openTransaction op arg s).tseen = false := rfl
@[simp] theorem openTransaction_nonhex : (openTransaction op arg s).nonhex = false := rfl
@[simp] theorem openTransaction_acc : (openTransaction op arg s).acc = 0 := rfl
@[simp] theorem openTransaction_startDelimiter : (openTransaction op arg s).startDelimiter = 0 := rfl
@[simp] theorem openTransaction_length : (openTransaction op arg s).length = 0 := rfl
@[simp] theorem openTransaction_frameType : (openTransaction op arg s).frameType = 0 := rfl
@[simp] theorem openTransaction_frameId : (openTransaction op arg s).frameId = 0 := rfl
@[simp] theorem openTransaction_destinationAddress64 : (openTransaction op arg s).destinationAddress64 = 0 := rfl
@[simp] theorem openTransaction_destinationAddress16 : (openTransaction op arg s).destinationAddress16 = 0 := rfl
@[simp] theorem openTransaction_atCommand : (openTransaction op arg s).atCommand = 0 := rfl
@[simp] theorem openTransaction_status : (openTransaction op arg s).status = 0 := rfl
@[simp] theorem openTransaction_response : (openTransaction op arg s).response = 0 := rfl
@[simp] theorem openTransaction_checksum : (openTransaction op arg s).checksum = 0 := rfl
@[simp] theorem openTransaction_fvalid : (openTransaction op arg s).fvalid = 0 := rfl
@[simp] theorem openTransaction_payloadCount : (openTransaction op arg s).payloadCount = 0 := rfl
@[simp] theorem openTransaction_verdict : (openTransaction op arg s).verdict = false := rfl
@[simp] theorem openTransaction_sum : (openTransaction op arg s).sum = 0 := rfl
@[simp] theorem openTransaction_sumPayload : (openTransaction op arg s).sumPayload = 0 := rfl
@[simp] theorem openTransaction_checksumCalc : (openTransaction op arg s).checksumCalc = 0 := rfl
@[simp] theorem openTransaction_rc : (openTransaction op arg s).rc = 0 := rfl
@[simp] theorem openTransaction_cause : (openTransaction op arg s).cause = 0 := rfl
@[simp] theorem openTransaction_done : (openTransaction op arg s).done = false := rfl
@[simp] theorem openTransaction_pbuf : (openTransaction op arg s).pbuf = s.pbuf := rfl
@[simp] theorem openTransaction_input : (openTransaction op arg s).input = s.input := rfl
@[simp] theorem openTransaction_readings : (openTransaction op arg s).readings = s.readings := rfl

@[simp] theorem closeTransaction_phase : (closeTransaction s).phase = .idle := rfl
@[simp] theorem closeTransaction_opQ : (closeTransaction s).opQ = s.opQ := rfl
@[simp] theorem closeTransaction_argQ : (closeTransaction s).argQ = s.argQ := rfl
@[simp] theorem closeTransaction_nib : (closeTransaction s).nib = s.nib := rfl
@[simp] theorem closeTransaction_hi : (closeTransaction s).hi = s.hi := rfl
@[simp] theorem closeTransaction_bidx : (closeTransaction s).bidx = s.bidx := rfl
@[simp] theorem closeTransaction_tseen : (closeTransaction s).tseen = s.tseen := rfl
@[simp] theorem closeTransaction_nonhex : (closeTransaction s).nonhex = s.nonhex := rfl
@[simp] theorem closeTransaction_acc : (closeTransaction s).acc = s.acc := rfl
@[simp] theorem closeTransaction_startDelimiter : (closeTransaction s).startDelimiter = s.startDelimiter := rfl
@[simp] theorem closeTransaction_length : (closeTransaction s).length = s.length := rfl
@[simp] theorem closeTransaction_frameType : (closeTransaction s).frameType = s.frameType := rfl
@[simp] theorem closeTransaction_frameId : (closeTransaction s).frameId = s.frameId := rfl
@[simp] theorem closeTransaction_destinationAddress64 : (closeTransaction s).destinationAddress64 = s.destinationAddress64 := rfl
@[simp] theorem closeTransaction_destinationAddress16 : (closeTransaction s).destinationAddress16 = s.destinationAddress16 := rfl
@[simp] theorem closeTransaction_atCommand : (closeTransaction s).atCommand = s.atCommand := rfl
@[simp] theorem closeTransaction_status : (closeTransaction s).status = s.status := rfl
@[simp] theorem closeTransaction_response : (closeTransaction s).response = s.response := rfl
@[simp] theorem closeTransaction_checksum : (closeTransaction s).checksum = s.checksum := rfl
@[simp] theorem closeTransaction_fvalid : (closeTransaction s).fvalid = s.fvalid := rfl
@[simp] theorem closeTransaction_payloadCount : (closeTransaction s).payloadCount = s.payloadCount := rfl
@[simp] theorem closeTransaction_verdict : (closeTransaction s).verdict = s.verdict := rfl
@[simp] theorem closeTransaction_sum : (closeTransaction s).sum = s.sum := rfl
@[simp] theorem closeTransaction_sumPayload : (closeTransaction s).sumPayload = s.sumPayload := rfl
@[simp] theorem closeTransaction_checksumCalc : (closeTransaction s).checksumCalc = s.checksumCalc := rfl
@[simp] theorem closeTransaction_rc : (closeTransaction s).rc = s.rc := rfl
@[simp] theorem closeTransaction_cause : (closeTransaction s).cause = s.cause := rfl
@[simp] theorem closeTransaction_done : (closeTransaction s).done = true := rfl
@[simp] theorem closeTransaction_pbuf : (closeTransaction s).pbuf = s.pbuf := rfl
@[simp] theorem closeTransaction_input : (closeTransaction s).input = s.input := rfl
@[simp] theorem closeTransaction_readings : (closeTransaction s).readings = s.readings := rfl

@[simp] theorem publishError_phase : (publishError c s).phase = .idle := rfl
@[simp] theorem publishError_opQ : (publishError c s).opQ = s.opQ := rfl
@[simp] theorem publishError_argQ : (publishError c s).argQ = s.argQ := rfl
@[simp] theorem publishError_nib : (publishError c s).nib = s.nib := rfl
@[simp] theorem publishError_hi : (publishError c s).hi = s.hi := rfl
@[simp] theorem publishError_bidx : (publishError c s).bidx = s.bidx := rfl
@[simp] theorem publishError_tseen : (publishError c s).tseen = s.tseen := rfl
@[simp] theorem publishError_nonhex : (publishError c s).nonhex = s.nonhex := rfl
@[simp] theorem publishError_acc : (publishError c s).acc = s.acc := rfl
@[simp] theorem publishError_startDelimiter : (publishError c s).startDelimiter = 0 := rfl
@[simp] theorem publishError_length : (publishError c s).length = 0 := rfl
@[simp] theorem publishError_frameType : (publishError c s).frameType = 0 := rfl
@[simp] theorem publishError_frameId : (publishError c s).frameId = 0 := rfl
@[simp] theorem publishError_destinationAddress64 : (publishError c s).destinationAddress64 = 0 := rfl
@[simp] theorem publishError_destinationAddress16 : (publishError c s).destinationAddress16 = 0 := rfl
@[simp] theorem publishError_atCommand : (publishError c s).atCommand = 0 := rfl
@[simp] theorem publishError_status : (publishError c s).status = 0 := rfl
@[simp] theorem publishError_response : (publishError c s).response = 0 := rfl
@[simp] theorem publishError_checksum : (publishError c s).checksum = 0 := rfl
@[simp] theorem publishError_fvalid : (publishError c s).fvalid = 0 := rfl
@[simp] theorem publishError_payloadCount : (publishError c s).payloadCount = 0 := rfl
@[simp] theorem publishError_verdict : (publishError c s).verdict = false := rfl
@[simp] theorem publishError_sum : (publishError c s).sum = 0 := rfl
@[simp] theorem publishError_sumPayload : (publishError c s).sumPayload = 0 := rfl
@[simp] theorem publishError_checksumCalc : (publishError c s).checksumCalc = 0 := rfl
@[simp] theorem publishError_rc : (publishError c s).rc = errorCode c := rfl
@[simp] theorem publishError_cause : (publishError c s).cause = causeCode c := rfl
@[simp] theorem publishError_done : (publishError c s).done = true := rfl
@[simp] theorem publishError_pbuf : (publishError c s).pbuf = s.pbuf := rfl
@[simp] theorem publishError_input : (publishError c s).input = s.input := rfl
@[simp] theorem publishError_readings : (publishError c s).readings = s.readings := rfl

@[simp] theorem resetStep_phase : (resetStep s).phase = .idle := rfl
@[simp] theorem resetStep_opQ : (resetStep s).opQ = .decode := rfl
@[simp] theorem resetStep_argQ : (resetStep s).argQ = 0 := rfl
@[simp] theorem resetStep_nib : (resetStep s).nib = false := rfl
@[simp] theorem resetStep_hi : (resetStep s).hi = 0 := rfl
@[simp] theorem resetStep_bidx : (resetStep s).bidx = 0 := rfl
@[simp] theorem resetStep_tseen : (resetStep s).tseen = false := rfl
@[simp] theorem resetStep_nonhex : (resetStep s).nonhex = false := rfl
@[simp] theorem resetStep_acc : (resetStep s).acc = 0 := rfl
@[simp] theorem resetStep_startDelimiter : (resetStep s).startDelimiter = 0 := rfl
@[simp] theorem resetStep_length : (resetStep s).length = 0 := rfl
@[simp] theorem resetStep_frameType : (resetStep s).frameType = 0 := rfl
@[simp] theorem resetStep_frameId : (resetStep s).frameId = 0 := rfl
@[simp] theorem resetStep_destinationAddress64 : (resetStep s).destinationAddress64 = 0 := rfl
@[simp] theorem resetStep_destinationAddress16 : (resetStep s).destinationAddress16 = 0 := rfl
@[simp] theorem resetStep_atCommand : (resetStep s).atCommand = 0 := rfl
@[simp] theorem resetStep_status : (resetStep s).status = 0 := rfl
@[simp] theorem resetStep_response : (resetStep s).response = 0 := rfl
@[simp] theorem resetStep_checksum : (resetStep s).checksum = 0 := rfl
@[simp] theorem resetStep_fvalid : (resetStep s).fvalid = 0 := rfl
@[simp] theorem resetStep_payloadCount : (resetStep s).payloadCount = 0 := rfl
@[simp] theorem resetStep_verdict : (resetStep s).verdict = false := rfl
@[simp] theorem resetStep_sum : (resetStep s).sum = 0 := rfl
@[simp] theorem resetStep_sumPayload : (resetStep s).sumPayload = 0 := rfl
@[simp] theorem resetStep_checksumCalc : (resetStep s).checksumCalc = 0 := rfl
@[simp] theorem resetStep_rc : (resetStep s).rc = 0 := rfl
@[simp] theorem resetStep_cause : (resetStep s).cause = 0 := rfl
@[simp] theorem resetStep_done : (resetStep s).done = false := rfl
@[simp] theorem resetStep_pbuf : (resetStep s).pbuf = s.pbuf := rfl
@[simp] theorem resetStep_input : (resetStep s).input = s.input := rfl
@[simp] theorem resetStep_readings : (resetStep s).readings = s.readings := rfl

@[simp] theorem commitByte_phase : (commitByte b s).phase = s.phase := rfl
@[simp] theorem commitByte_opQ : (commitByte b s).opQ = s.opQ := rfl
@[simp] theorem commitByte_argQ : (commitByte b s).argQ = s.argQ := rfl
@[simp] theorem commitByte_nib : (commitByte b s).nib = s.nib := rfl
@[simp] theorem commitByte_hi : (commitByte b s).hi = s.hi := rfl
@[simp] theorem commitByte_bidx : (commitByte b s).bidx = nextIndex s.bidx := rfl
@[simp] theorem commitByte_tseen : (commitByte b s).tseen = s.tseen := rfl
@[simp] theorem commitByte_nonhex : (commitByte b s).nonhex = s.nonhex := rfl
@[simp] theorem commitByte_acc : (commitByte b s).acc = if Config.payloadStart ≤ s.bidx.toNat then s.acc + b else s.acc := rfl
@[simp] theorem commitByte_startDelimiter : (commitByte b s).startDelimiter = if s.bidx.toNat = 0 then b else s.startDelimiter := rfl
@[simp] theorem commitByte_length : (commitByte b s).length = placeByte 1 2 s.bidx.toNat s.length b := rfl
@[simp] theorem commitByte_frameType : (commitByte b s).frameType = if s.bidx.toNat = 3 then b else s.frameType := rfl
@[simp] theorem commitByte_frameId : (commitByte b s).frameId = if s.bidx.toNat = 4 then b else s.frameId := rfl
@[simp] theorem commitByte_destinationAddress64 : (commitByte b s).destinationAddress64 = placeByte 5 12 s.bidx.toNat s.destinationAddress64 b := rfl
@[simp] theorem commitByte_destinationAddress16 : (commitByte b s).destinationAddress16 = placeByte 13 14 s.bidx.toNat s.destinationAddress16 b := rfl
@[simp] theorem commitByte_atCommand : (commitByte b s).atCommand = placeByte 15 16 s.bidx.toNat s.atCommand b := rfl
@[simp] theorem commitByte_status : (commitByte b s).status = if s.bidx.toNat = 17 then b else s.status := rfl
@[simp] theorem commitByte_response : (commitByte b s).response = if s.bidx.toNat = 18 then b else s.response := rfl
@[simp] theorem commitByte_checksum : (commitByte b s).checksum = b := rfl
@[simp] theorem commitByte_fvalid : (commitByte b s).fvalid = fvalidAfter s.bidx.toNat s.fvalid := rfl
@[simp] theorem commitByte_payloadCount : (commitByte b s).payloadCount = s.payloadCount := rfl
@[simp] theorem commitByte_verdict : (commitByte b s).verdict = s.verdict := rfl
@[simp] theorem commitByte_sum : (commitByte b s).sum = s.sum := rfl
@[simp] theorem commitByte_sumPayload : (commitByte b s).sumPayload = s.sumPayload := rfl
@[simp] theorem commitByte_checksumCalc : (commitByte b s).checksumCalc = s.checksumCalc := rfl
@[simp] theorem commitByte_rc : (commitByte b s).rc = s.rc := rfl
@[simp] theorem commitByte_cause : (commitByte b s).cause = s.cause := rfl
@[simp] theorem commitByte_done : (commitByte b s).done = s.done := rfl
@[simp] theorem commitByte_pbuf : (commitByte b s).pbuf = storeByte s.bidx.toNat b s.pbuf := rfl
@[simp] theorem commitByte_input : (commitByte b s).input = s.input := rfl
@[simp] theorem commitByte_readings : (commitByte b s).readings = s.readings := rfl

@[simp] theorem addByte_phase : (addByte d s).phase = s.phase := rfl
@[simp] theorem addByte_opQ : (addByte d s).opQ = s.opQ := rfl
@[simp] theorem addByte_argQ : (addByte d s).argQ = s.argQ := rfl
@[simp] theorem addByte_nib : (addByte d s).nib = s.nib := rfl
@[simp] theorem addByte_hi : (addByte d s).hi = s.hi := rfl
@[simp] theorem addByte_bidx : (addByte d s).bidx = s.bidx := rfl
@[simp] theorem addByte_tseen : (addByte d s).tseen = s.tseen := rfl
@[simp] theorem addByte_nonhex : (addByte d s).nonhex = s.nonhex := rfl
@[simp] theorem addByte_acc : (addByte d s).acc = s.acc + d := rfl
@[simp] theorem addByte_startDelimiter : (addByte d s).startDelimiter = s.startDelimiter := rfl
@[simp] theorem addByte_length : (addByte d s).length = s.length := rfl
@[simp] theorem addByte_frameType : (addByte d s).frameType = s.frameType := rfl
@[simp] theorem addByte_frameId : (addByte d s).frameId = s.frameId := rfl
@[simp] theorem addByte_destinationAddress64 : (addByte d s).destinationAddress64 = s.destinationAddress64 := rfl
@[simp] theorem addByte_destinationAddress16 : (addByte d s).destinationAddress16 = s.destinationAddress16 := rfl
@[simp] theorem addByte_atCommand : (addByte d s).atCommand = s.atCommand := rfl
@[simp] theorem addByte_status : (addByte d s).status = s.status := rfl
@[simp] theorem addByte_response : (addByte d s).response = s.response := rfl
@[simp] theorem addByte_checksum : (addByte d s).checksum = s.checksum := rfl
@[simp] theorem addByte_fvalid : (addByte d s).fvalid = s.fvalid := rfl
@[simp] theorem addByte_payloadCount : (addByte d s).payloadCount = s.payloadCount := rfl
@[simp] theorem addByte_verdict : (addByte d s).verdict = s.verdict := rfl
@[simp] theorem addByte_sum : (addByte d s).sum = s.sum := rfl
@[simp] theorem addByte_sumPayload : (addByte d s).sumPayload = s.sumPayload := rfl
@[simp] theorem addByte_checksumCalc : (addByte d s).checksumCalc = s.checksumCalc := rfl
@[simp] theorem addByte_rc : (addByte d s).rc = s.rc := rfl
@[simp] theorem addByte_cause : (addByte d s).cause = s.cause := rfl
@[simp] theorem addByte_done : (addByte d s).done = s.done := rfl
@[simp] theorem addByte_pbuf : (addByte d s).pbuf = s.pbuf := rfl
@[simp] theorem addByte_input : (addByte d s).input = s.input := rfl
@[simp] theorem addByte_readings : (addByte d s).readings = s.readings := rfl

@[simp] theorem publishFrame_phase : (publishFrame s).phase = s.phase := rfl
@[simp] theorem publishFrame_opQ : (publishFrame s).opQ = s.opQ := rfl
@[simp] theorem publishFrame_argQ : (publishFrame s).argQ = s.argQ := rfl
@[simp] theorem publishFrame_nib : (publishFrame s).nib = s.nib := rfl
@[simp] theorem publishFrame_hi : (publishFrame s).hi = s.hi := rfl
@[simp] theorem publishFrame_bidx : (publishFrame s).bidx = s.bidx := rfl
@[simp] theorem publishFrame_tseen : (publishFrame s).tseen = s.tseen := rfl
@[simp] theorem publishFrame_nonhex : (publishFrame s).nonhex = s.nonhex := rfl
@[simp] theorem publishFrame_acc : (publishFrame s).acc = s.acc := rfl
@[simp] theorem publishFrame_startDelimiter : (publishFrame s).startDelimiter = s.startDelimiter := rfl
@[simp] theorem publishFrame_length : (publishFrame s).length = s.length := rfl
@[simp] theorem publishFrame_frameType : (publishFrame s).frameType = validOrZero s.fvalid 0 s.frameType := rfl
@[simp] theorem publishFrame_frameId : (publishFrame s).frameId = validOrZero s.fvalid 1 s.frameId := rfl
@[simp] theorem publishFrame_destinationAddress64 : (publishFrame s).destinationAddress64 = validOrZero s.fvalid 2 s.destinationAddress64 := rfl
@[simp] theorem publishFrame_destinationAddress16 : (publishFrame s).destinationAddress16 = validOrZero s.fvalid 3 s.destinationAddress16 := rfl
@[simp] theorem publishFrame_atCommand : (publishFrame s).atCommand = validOrZero s.fvalid 4 s.atCommand := rfl
@[simp] theorem publishFrame_status : (publishFrame s).status = validOrZero s.fvalid 5 s.status := rfl
@[simp] theorem publishFrame_response : (publishFrame s).response = validOrZero s.fvalid 6 s.response := rfl
@[simp] theorem publishFrame_checksum : (publishFrame s).checksum = s.checksum := rfl
@[simp] theorem publishFrame_fvalid : (publishFrame s).fvalid = s.fvalid := rfl
@[simp] theorem publishFrame_payloadCount : (publishFrame s).payloadCount = BitVec.ofNat 16 (s.bidx.toNat - Config.minFrameBytes) := rfl
@[simp] theorem publishFrame_verdict : (publishFrame s).verdict = verdictOf s.acc := rfl
@[simp] theorem publishFrame_sum : (publishFrame s).sum = s.acc := rfl
@[simp] theorem publishFrame_sumPayload : (publishFrame s).sumPayload = s.acc - s.checksum := rfl
@[simp] theorem publishFrame_checksumCalc : (publishFrame s).checksumCalc = complement (s.acc - s.checksum) := rfl
@[simp] theorem publishFrame_rc : (publishFrame s).rc = 0 := rfl
@[simp] theorem publishFrame_cause : (publishFrame s).cause = 0 := rfl
@[simp] theorem publishFrame_done : (publishFrame s).done = s.done := rfl
@[simp] theorem publishFrame_pbuf : (publishFrame s).pbuf = s.pbuf := rfl
@[simp] theorem publishFrame_input : (publishFrame s).input = s.input := rfl
@[simp] theorem publishFrame_readings : (publishFrame s).readings = s.readings := rfl

@[simp] theorem takeReading_phase : (takeReading s).phase = s.phase := rfl
@[simp] theorem takeReading_opQ : (takeReading s).opQ = s.opQ := rfl
@[simp] theorem takeReading_argQ : (takeReading s).argQ = s.argQ := rfl
@[simp] theorem takeReading_nib : (takeReading s).nib = s.nib := rfl
@[simp] theorem takeReading_hi : (takeReading s).hi = s.hi := rfl
@[simp] theorem takeReading_bidx : (takeReading s).bidx = s.bidx := rfl
@[simp] theorem takeReading_tseen : (takeReading s).tseen = s.tseen := rfl
@[simp] theorem takeReading_nonhex : (takeReading s).nonhex = s.nonhex := rfl
@[simp] theorem takeReading_acc : (takeReading s).acc = s.acc := rfl
@[simp] theorem takeReading_startDelimiter : (takeReading s).startDelimiter = s.startDelimiter := rfl
@[simp] theorem takeReading_length : (takeReading s).length = s.length := rfl
@[simp] theorem takeReading_frameType : (takeReading s).frameType = s.frameType := rfl
@[simp] theorem takeReading_frameId : (takeReading s).frameId = s.frameId := rfl
@[simp] theorem takeReading_destinationAddress64 : (takeReading s).destinationAddress64 = s.destinationAddress64 := rfl
@[simp] theorem takeReading_destinationAddress16 : (takeReading s).destinationAddress16 = s.destinationAddress16 := rfl
@[simp] theorem takeReading_atCommand : (takeReading s).atCommand = s.atCommand := rfl
@[simp] theorem takeReading_status : (takeReading s).status = s.status := rfl
@[simp] theorem takeReading_response : (takeReading s).response = s.response := rfl
@[simp] theorem takeReading_checksum : (takeReading s).checksum = s.checksum := rfl
@[simp] theorem takeReading_fvalid : (takeReading s).fvalid = s.fvalid := rfl
@[simp] theorem takeReading_payloadCount : (takeReading s).payloadCount = s.payloadCount := rfl
@[simp] theorem takeReading_verdict : (takeReading s).verdict = s.verdict := rfl
@[simp] theorem takeReading_sum : (takeReading s).sum = s.sum := rfl
@[simp] theorem takeReading_sumPayload : (takeReading s).sumPayload = s.sumPayload := rfl
@[simp] theorem takeReading_checksumCalc : (takeReading s).checksumCalc = s.checksumCalc := rfl
@[simp] theorem takeReading_rc : (takeReading s).rc = s.rc := rfl
@[simp] theorem takeReading_cause : (takeReading s).cause = s.cause := rfl
@[simp] theorem takeReading_done : (takeReading s).done = s.done := rfl
@[simp] theorem takeReading_pbuf : (takeReading s).pbuf = s.pbuf := rfl
@[simp] theorem takeReading_input : (takeReading s).input = s.input := rfl
@[simp] theorem takeReading_readings : (takeReading s).readings = s.readings ++ [s.reading] := rfl

end Sys2Proof.Machine
end

