-- ==== Sys2Proof/Laws/Ops.lean ====
section
/-! SUPPORT. What each shared operation can do, said once: the equations and inversions of SYM and END, and what they leave alone. -/

namespace Sys2Proof.Machine

/-! The host's next input. -/

theorem nextInput_of_nil {s : State} (h : s.input = []) : nextInput s = (.edge idlePorts, s) := by
  unfold nextInput
  rw [h]

theorem nextInput_of_cons {s : State} {item : HostInput} {rest : List HostInput} (h : s.input = item :: rest) :
    nextInput s = (item, { s with input := rest }) := by
  unfold nextInput
  rw [h]

/-! SYM. -/

theorem phase_or (s : State) : s.phase = .idle ∨ s.phase = .run := by cases s.phase <;> simp

theorem operation_or (s : State) : s.opQ = .decode ∨ s.opQ = .sumBytes ∨ s.opQ = .deriveChk ∨ s.opQ = .verify := by
  cases s.opQ <;> simp

theorem takeDigit_high {s : State} (h : s.nib = false) (v : Nibble) : takeDigit v s = { s with hi := v, nib := true } := by
  simp [takeDigit, h]

theorem takeDigit_low {s : State} (h : s.nib = true) (v : Nibble) :
    takeDigit v s = commitByte (assembleByte s.hi v) { s with nib := false } := by
  simp [takeDigit, h]

theorem takeCharacter_term (v : Nibble) (s : State) : takeCharacter .term v s = { s with tseen := true } := rfl

theorem takeCharacter_digit {cls : CharClass} (h : cls ≠ .term) (v : Nibble) (s : State) :
    takeCharacter cls v s = takeDigit v { s with nonhex := nonhexAfter cls s.tseen s.nonhex } := by
  cases cls <;> first | rfl | contradiction

theorem takeSymbol_idle {s : State} (h : s.phase = .idle) (cls : CharClass) (v : Nibble) (c : Byte) : takeSymbol cls v c s = s := by
  simp [takeSymbol, h]

theorem takeSymbol_decode {s : State} (h : s.phase = .run) (ho : s.opQ = .decode) (cls : CharClass) (v : Nibble) (c : Byte) :
    takeSymbol cls v c s = takeCharacter cls v s := by
  simp [takeSymbol, h, ho]

theorem takeSymbol_adding {s : State} (h : s.phase = .run) (ho : s.opQ = .sumBytes ∨ s.opQ = .verify) (cls : CharClass)
    (v : Nibble) (c : Byte) : takeSymbol cls v c s = addByte c s := by
  rcases ho with ho | ho <;> simp [takeSymbol, h, ho]

theorem takeSymbol_derive {s : State} (h : s.phase = .run) (ho : s.opQ = .deriveChk) (cls : CharClass) (v : Nibble) (c : Byte) :
    takeSymbol cls v c s = s := by
  simp [takeSymbol, h, ho]

/-- Everything a symbol can do (R164, R165, R110, R111): nothing, a byte added, a terminator seen, a high digit held, or a byte
committed. -/
theorem takeSymbol_cases (cls : CharClass) (v : Nibble) (c : Byte) (s : State) :
    (takeSymbol cls v c s = s ∧ (s.phase = .idle ∨ s.opQ = .deriveChk)) ∨
    (takeSymbol cls v c s = addByte c s ∧ s.phase = .run ∧ (s.opQ = .sumBytes ∨ s.opQ = .verify)) ∨
    (takeSymbol cls v c s = { s with tseen := true } ∧ s.phase = .run ∧ s.opQ = .decode ∧ cls = .term) ∨
    (takeSymbol cls v c s = { s with nonhex := nonhexAfter cls s.tseen s.nonhex, hi := v, nib := true } ∧ s.phase = .run ∧
      s.opQ = .decode ∧ cls ≠ .term ∧ s.nib = false) ∨
    (takeSymbol cls v c s =
        commitByte (assembleByte s.hi v) { s with nonhex := nonhexAfter cls s.tseen s.nonhex, nib := false } ∧
      s.phase = .run ∧ s.opQ = .decode ∧ cls ≠ .term ∧ s.nib = true) := by
  rcases phase_or s with hp | hp
  · exact .inl ⟨takeSymbol_idle hp cls v c, .inl hp⟩
  · rcases operation_or s with ho | ho | ho | ho
    · rw [takeSymbol_decode hp ho]
      by_cases ht : cls = .term
      · subst ht
        exact .inr (.inr (.inl ⟨rfl, hp, ho, rfl⟩))
      · rw [takeCharacter_digit ht]
        rcases Bool.eq_false_or_eq_true s.nib with hn | hn
        · exact .inr (.inr (.inr (.inr ⟨takeDigit_low (by exact hn) v, hp, ho, ht, hn⟩)))
        · exact .inr (.inr (.inr (.inl ⟨takeDigit_high (by exact hn) v, hp, ho, ht, hn⟩)))
    · exact .inr (.inl ⟨takeSymbol_adding hp (.inl ho) cls v c, hp, .inl ho⟩)
    · exact .inl ⟨takeSymbol_derive hp ho cls v c, .inr ho⟩
    · exact .inr (.inl ⟨takeSymbol_adding hp (.inr ho) cls v c, hp, .inr ho⟩)

/-! END. -/

theorem endEvent_idle {s : State} (h : s.phase = .idle) : endEvent s = s := by simp [endEvent, h]

theorem endEvent_decode {s : State} (h : s.phase = .run) (ho : s.opQ = .decode) : endEvent s = endDecode s := by
  simp [endEvent, h, ho]

theorem endEvent_sumBytes {s : State} (h : s.phase = .run) (ho : s.opQ = .sumBytes) : endEvent s = endSumBytes s := by
  simp [endEvent, h, ho]

theorem endEvent_deriveChk {s : State} (h : s.phase = .run) (ho : s.opQ = .deriveChk) : endEvent s = endDeriveChk s := by
  simp [endEvent, h, ho]

theorem endEvent_verify {s : State} (h : s.phase = .run) (ho : s.opQ = .verify) : endEvent s = endVerify s := by
  simp [endEvent, h, ho]

/-- The frame checks all pass exactly when none of the five conditions of R113 holds. -/
theorem malformedCause_none {s : State} :
    malformedCause s = none ↔
      s.nonhex = false ∧ s.nib = false ∧ 4 ≤ s.bidx.toNat ∧ s.startDelimiter = 0x7E#8 ∧ s.length.toNat + 4 = s.bidx.toNat := by
  unfold malformedCause
  simp only [Config.minFrameBytes, Config.startDelim, Config.enforceDelim, Config.enforceLength, true_and]
  cases s.nonhex <;> cases s.nib <;> simp
  by_cases h1 : s.bidx.toNat < 4
  · simp [h1]
  · by_cases h2 : s.startDelimiter = 0x7E#8
    · by_cases h3 : s.length.toNat + 4 = s.bidx.toNat
      · simp [h1, h2, h3]; omega
      · simp [h1, h2, h3]
    · simp [h1, h2]

/-- DECODE never raises the domain error (R100). -/
theorem malformedCause_ne_domain (s : State) : malformedCause s ≠ some .domain := by
  unfold malformedCause
  repeat' split
  all_goals simp

/-- Everything an END can do (R166, R167, R113, R135 to R137). -/
theorem endEvent_cases (s : State) :
    (endEvent s = s ∧ s.phase = .idle) ∨
    (∃ c, endEvent s = publishError c s ∧ s.phase = .run ∧ s.opQ = .decode ∧ malformedCause s = some c) ∨
    (endEvent s = closeTransaction (publishFrame s) ∧ s.phase = .run ∧ s.opQ = .decode ∧ malformedCause s = none) ∨
    (endEvent s = endSumBytes s ∧ s.phase = .run ∧ s.opQ = .sumBytes) ∨
    (endEvent s = publishError .domain s ∧ s.phase = .run ∧ s.opQ = .deriveChk ∧ 0xFF < s.argQ.toNat) ∨
    (endEvent s = closeTransaction { s with checksumCalc := complement (argByte s.argQ), rc := 0, cause := 0 } ∧
      s.phase = .run ∧ s.opQ = .deriveChk ∧ s.argQ.toNat ≤ 0xFF) ∨
    (endEvent s = endVerify s ∧ s.phase = .run ∧ s.opQ = .verify) := by
  rcases phase_or s with hp | hp
  · exact .inl ⟨endEvent_idle hp, hp⟩
  · rcases operation_or s with ho | ho | ho | ho
    · rw [endEvent_decode hp ho]
      cases hm : malformedCause s with
      | some c => exact .inr (.inl ⟨c, by simp [endDecode, hm], hp, ho, rfl⟩)
      | none => exact .inr (.inr (.inl ⟨by simp [endDecode, hm], hp, ho, rfl⟩))
    · exact .inr (.inr (.inr (.inl ⟨endEvent_sumBytes hp ho, hp, ho⟩)))
    · rw [endEvent_deriveChk hp ho]
      by_cases ha : 0xFF < s.argQ.toNat
      · exact .inr (.inr (.inr (.inr (.inl ⟨by simp [endDeriveChk, ha], hp, ho, ha⟩))))
      · exact .inr (.inr (.inr (.inr (.inr (.inl ⟨by simp [endDeriveChk, ha], hp, ho, by omega⟩)))))
    · exact .inr (.inr (.inr (.inr (.inr (.inr ⟨endEvent_verify hp ho, hp, ho⟩)))))

/-! What SYM and END leave alone (R42). -/

@[simp] theorem takeSymbol_phase (cls : CharClass) (v : Nibble) (c : Byte) (s : State) : (takeSymbol cls v c s).phase = s.phase := by
  rcases takeSymbol_cases cls v c s with ⟨h, -⟩ | ⟨h, -⟩ | ⟨h, -⟩ | ⟨h, -⟩ | ⟨h, -⟩ <;> rw [h] <;> rfl

@[simp] theorem symEvent_phase (c : Byte) (s : State) : (symEvent c s).phase = s.phase := takeSymbol_phase _ _ _ _

@[simp] theorem takeSymbols_phase (syms : List Byte) (s : State) : (takeSymbols syms s).phase = s.phase := by
  unfold takeSymbols
  induction syms generalizing s with
  | nil => rfl
  | cons c rest ih => rw [List.foldl_cons, ih, symEvent_phase]

@[simp] theorem takeSymbol_opQ (cls : CharClass) (v : Nibble) (c : Byte) (s : State) : (takeSymbol cls v c s).opQ = s.opQ := by
  rcases takeSymbol_cases cls v c s with ⟨h, -⟩ | ⟨h, -⟩ | ⟨h, -⟩ | ⟨h, -⟩ | ⟨h, -⟩ <;> rw [h] <;> rfl

@[simp] theorem symEvent_opQ (c : Byte) (s : State) : (symEvent c s).opQ = s.opQ := takeSymbol_opQ _ _ _ _

@[simp] theorem takeSymbols_opQ (syms : List Byte) (s : State) : (takeSymbols syms s).opQ = s.opQ := by
  unfold takeSymbols
  induction syms generalizing s with
  | nil => rfl
  | cons c rest ih => rw [List.foldl_cons, ih, symEvent_opQ]

@[simp] theorem takeSymbol_argQ (cls : CharClass) (v : Nibble) (c : Byte) (s : State) : (takeSymbol cls v c s).argQ = s.argQ := by
  rcases takeSymbol_cases cls v c s with ⟨h, -⟩ | ⟨h, -⟩ | ⟨h, -⟩ | ⟨h, -⟩ | ⟨h, -⟩ <;> rw [h] <;> rfl

@[simp] theorem symEvent_argQ (c : Byte) (s : State) : (symEvent c s).argQ = s.argQ := takeSymbol_argQ _ _ _ _

@[simp] theorem takeSymbols_argQ (syms : List Byte) (s : State) : (takeSymbols syms s).argQ = s.argQ := by
  unfold takeSymbols
  induction syms generalizing s with
  | nil => rfl
  | cons c rest ih => rw [List.foldl_cons, ih, symEvent_argQ]

@[simp] theorem takeSymbol_payloadCount (cls : CharClass) (v : Nibble) (c : Byte) (s : State) : (takeSymbol cls v c s).payloadCount = s.payloadCount := by
  rcases takeSymbol_cases cls v c s with ⟨h, -⟩ | ⟨h, -⟩ | ⟨h, -⟩ | ⟨h, -⟩ | ⟨h, -⟩ <;> rw [h] <;> rfl

@[simp] theorem symEvent_payloadCount (c : Byte) (s : State) : (symEvent c s).payloadCount = s.payloadCount := takeSymbol_payloadCount _ _ _ _

@[simp] theorem takeSymbols_payloadCount (syms : List Byte) (s : State) : (takeSymbols syms s).payloadCount = s.payloadCount := by
  unfold takeSymbols
  induction syms generalizing s with
  | nil => rfl
  | cons c rest ih => rw [List.foldl_cons, ih, symEvent_payloadCount]

@[simp] theorem takeSymbol_verdict (cls : CharClass) (v : Nibble) (c : Byte) (s : State) : (takeSymbol cls v c s).verdict = s.verdict := by
  rcases takeSymbol_cases cls v c s with ⟨h, -⟩ | ⟨h, -⟩ | ⟨h, -⟩ | ⟨h, -⟩ | ⟨h, -⟩ <;> rw [h] <;> rfl

@[simp] theorem symEvent_verdict (c : Byte) (s : State) : (symEvent c s).verdict = s.verdict := takeSymbol_verdict _ _ _ _

@[simp] theorem takeSymbols_verdict (syms : List Byte) (s : State) : (takeSymbols syms s).verdict = s.verdict := by
  unfold takeSymbols
  induction syms generalizing s with
  | nil => rfl
  | cons c rest ih => rw [List.foldl_cons, ih, symEvent_verdict]

@[simp] theorem takeSymbol_sum (cls : CharClass) (v : Nibble) (c : Byte) (s : State) : (takeSymbol cls v c s).sum = s.sum := by
  rcases takeSymbol_cases cls v c s with ⟨h, -⟩ | ⟨h, -⟩ | ⟨h, -⟩ | ⟨h, -⟩ | ⟨h, -⟩ <;> rw [h] <;> rfl

@[simp] theorem symEvent_sum (c : Byte) (s : State) : (symEvent c s).sum = s.sum := takeSymbol_sum _ _ _ _

@[simp] theorem takeSymbols_sum (syms : List Byte) (s : State) : (takeSymbols syms s).sum = s.sum := by
  unfold takeSymbols
  induction syms generalizing s with
  | nil => rfl
  | cons c rest ih => rw [List.foldl_cons, ih, symEvent_sum]

@[simp] theorem takeSymbol_sumPayload (cls : CharClass) (v : Nibble) (c : Byte) (s : State) : (takeSymbol cls v c s).sumPayload = s.sumPayload := by
  rcases takeSymbol_cases cls v c s with ⟨h, -⟩ | ⟨h, -⟩ | ⟨h, -⟩ | ⟨h, -⟩ | ⟨h, -⟩ <;> rw [h] <;> rfl

@[simp] theorem symEvent_sumPayload (c : Byte) (s : State) : (symEvent c s).sumPayload = s.sumPayload := takeSymbol_sumPayload _ _ _ _

@[simp] theorem takeSymbols_sumPayload (syms : List Byte) (s : State) : (takeSymbols syms s).sumPayload = s.sumPayload := by
  unfold takeSymbols
  induction syms generalizing s with
  | nil => rfl
  | cons c rest ih => rw [List.foldl_cons, ih, symEvent_sumPayload]

@[simp] theorem takeSymbol_checksumCalc (cls : CharClass) (v : Nibble) (c : Byte) (s : State) : (takeSymbol cls v c s).checksumCalc = s.checksumCalc := by
  rcases takeSymbol_cases cls v c s with ⟨h, -⟩ | ⟨h, -⟩ | ⟨h, -⟩ | ⟨h, -⟩ | ⟨h, -⟩ <;> rw [h] <;> rfl

@[simp] theorem symEvent_checksumCalc (c : Byte) (s : State) : (symEvent c s).checksumCalc = s.checksumCalc := takeSymbol_checksumCalc _ _ _ _

@[simp] theorem takeSymbols_checksumCalc (syms : List Byte) (s : State) : (takeSymbols syms s).checksumCalc = s.checksumCalc := by
  unfold takeSymbols
  induction syms generalizing s with
  | nil => rfl
  | cons c rest ih => rw [List.foldl_cons, ih, symEvent_checksumCalc]

@[simp] theorem takeSymbol_rc (cls : CharClass) (v : Nibble) (c : Byte) (s : State) : (takeSymbol cls v c s).rc = s.rc := by
  rcases takeSymbol_cases cls v c s with ⟨h, -⟩ | ⟨h, -⟩ | ⟨h, -⟩ | ⟨h, -⟩ | ⟨h, -⟩ <;> rw [h] <;> rfl

@[simp] theorem symEvent_rc (c : Byte) (s : State) : (symEvent c s).rc = s.rc := takeSymbol_rc _ _ _ _

@[simp] theorem takeSymbols_rc (syms : List Byte) (s : State) : (takeSymbols syms s).rc = s.rc := by
  unfold takeSymbols
  induction syms generalizing s with
  | nil => rfl
  | cons c rest ih => rw [List.foldl_cons, ih, symEvent_rc]

@[simp] theorem takeSymbol_cause (cls : CharClass) (v : Nibble) (c : Byte) (s : State) : (takeSymbol cls v c s).cause = s.cause := by
  rcases takeSymbol_cases cls v c s with ⟨h, -⟩ | ⟨h, -⟩ | ⟨h, -⟩ | ⟨h, -⟩ | ⟨h, -⟩ <;> rw [h] <;> rfl

@[simp] theorem symEvent_cause (c : Byte) (s : State) : (symEvent c s).cause = s.cause := takeSymbol_cause _ _ _ _

@[simp] theorem takeSymbols_cause (syms : List Byte) (s : State) : (takeSymbols syms s).cause = s.cause := by
  unfold takeSymbols
  induction syms generalizing s with
  | nil => rfl
  | cons c rest ih => rw [List.foldl_cons, ih, symEvent_cause]

@[simp] theorem takeSymbol_done (cls : CharClass) (v : Nibble) (c : Byte) (s : State) : (takeSymbol cls v c s).done = s.done := by
  rcases takeSymbol_cases cls v c s with ⟨h, -⟩ | ⟨h, -⟩ | ⟨h, -⟩ | ⟨h, -⟩ | ⟨h, -⟩ <;> rw [h] <;> rfl

@[simp] theorem symEvent_done (c : Byte) (s : State) : (symEvent c s).done = s.done := takeSymbol_done _ _ _ _

@[simp] theorem takeSymbols_done (syms : List Byte) (s : State) : (takeSymbols syms s).done = s.done := by
  unfold takeSymbols
  induction syms generalizing s with
  | nil => rfl
  | cons c rest ih => rw [List.foldl_cons, ih, symEvent_done]

@[simp] theorem takeSymbol_input (cls : CharClass) (v : Nibble) (c : Byte) (s : State) : (takeSymbol cls v c s).input = s.input := by
  rcases takeSymbol_cases cls v c s with ⟨h, -⟩ | ⟨h, -⟩ | ⟨h, -⟩ | ⟨h, -⟩ | ⟨h, -⟩ <;> rw [h] <;> rfl

@[simp] theorem symEvent_input (c : Byte) (s : State) : (symEvent c s).input = s.input := takeSymbol_input _ _ _ _

@[simp] theorem takeSymbols_input (syms : List Byte) (s : State) : (takeSymbols syms s).input = s.input := by
  unfold takeSymbols
  induction syms generalizing s with
  | nil => rfl
  | cons c rest ih => rw [List.foldl_cons, ih, symEvent_input]

@[simp] theorem takeSymbol_readings (cls : CharClass) (v : Nibble) (c : Byte) (s : State) : (takeSymbol cls v c s).readings = s.readings := by
  rcases takeSymbol_cases cls v c s with ⟨h, -⟩ | ⟨h, -⟩ | ⟨h, -⟩ | ⟨h, -⟩ | ⟨h, -⟩ <;> rw [h] <;> rfl

@[simp] theorem symEvent_readings (c : Byte) (s : State) : (symEvent c s).readings = s.readings := takeSymbol_readings _ _ _ _

@[simp] theorem takeSymbols_readings (syms : List Byte) (s : State) : (takeSymbols syms s).readings = s.readings := by
  unfold takeSymbols
  induction syms generalizing s with
  | nil => rfl
  | cons c rest ih => rw [List.foldl_cons, ih, symEvent_readings]

@[simp] theorem endEvent_opQ (s : State) : (endEvent s).opQ = s.opQ := by
  rcases endEvent_cases s with ⟨h, -⟩ | ⟨c, h, -⟩ | ⟨h, -⟩ | ⟨h, -⟩ | ⟨h, -⟩ | ⟨h, -⟩ | ⟨h, -⟩ <;> rw [h] <;> rfl

@[simp] theorem endEvent_argQ (s : State) : (endEvent s).argQ = s.argQ := by
  rcases endEvent_cases s with ⟨h, -⟩ | ⟨c, h, -⟩ | ⟨h, -⟩ | ⟨h, -⟩ | ⟨h, -⟩ | ⟨h, -⟩ | ⟨h, -⟩ <;> rw [h] <;> rfl

@[simp] theorem endEvent_nib (s : State) : (endEvent s).nib = s.nib := by
  rcases endEvent_cases s with ⟨h, -⟩ | ⟨c, h, -⟩ | ⟨h, -⟩ | ⟨h, -⟩ | ⟨h, -⟩ | ⟨h, -⟩ | ⟨h, -⟩ <;> rw [h] <;> rfl

@[simp] theorem endEvent_hi (s : State) : (endEvent s).hi = s.hi := by
  rcases endEvent_cases s with ⟨h, -⟩ | ⟨c, h, -⟩ | ⟨h, -⟩ | ⟨h, -⟩ | ⟨h, -⟩ | ⟨h, -⟩ | ⟨h, -⟩ <;> rw [h] <;> rfl

@[simp] theorem endEvent_bidx (s : State) : (endEvent s).bidx = s.bidx := by
  rcases endEvent_cases s with ⟨h, -⟩ | ⟨c, h, -⟩ | ⟨h, -⟩ | ⟨h, -⟩ | ⟨h, -⟩ | ⟨h, -⟩ | ⟨h, -⟩ <;> rw [h] <;> rfl

@[simp] theorem endEvent_tseen (s : State) : (endEvent s).tseen = s.tseen := by
  rcases endEvent_cases s with ⟨h, -⟩ | ⟨c, h, -⟩ | ⟨h, -⟩ | ⟨h, -⟩ | ⟨h, -⟩ | ⟨h, -⟩ | ⟨h, -⟩ <;> rw [h] <;> rfl

@[simp] theorem endEvent_nonhex (s : State) : (endEvent s).nonhex = s.nonhex := by
  rcases endEvent_cases s with ⟨h, -⟩ | ⟨c, h, -⟩ | ⟨h, -⟩ | ⟨h, -⟩ | ⟨h, -⟩ | ⟨h, -⟩ | ⟨h, -⟩ <;> rw [h] <;> rfl

@[simp] theorem endEvent_acc (s : State) : (endEvent s).acc = s.acc := by
  rcases endEvent_cases s with ⟨h, -⟩ | ⟨c, h, -⟩ | ⟨h, -⟩ | ⟨h, -⟩ | ⟨h, -⟩ | ⟨h, -⟩ | ⟨h, -⟩ <;> rw [h] <;> rfl

@[simp] theorem endEvent_pbuf (s : State) : (endEvent s).pbuf = s.pbuf := by
  rcases endEvent_cases s with ⟨h, -⟩ | ⟨c, h, -⟩ | ⟨h, -⟩ | ⟨h, -⟩ | ⟨h, -⟩ | ⟨h, -⟩ | ⟨h, -⟩ <;> rw [h] <;> rfl

@[simp] theorem endEvent_input (s : State) : (endEvent s).input = s.input := by
  rcases endEvent_cases s with ⟨h, -⟩ | ⟨c, h, -⟩ | ⟨h, -⟩ | ⟨h, -⟩ | ⟨h, -⟩ | ⟨h, -⟩ | ⟨h, -⟩ <;> rw [h] <;> rfl

@[simp] theorem endEvent_readings (s : State) : (endEvent s).readings = s.readings := by
  rcases endEvent_cases s with ⟨h, -⟩ | ⟨c, h, -⟩ | ⟨h, -⟩ | ⟨h, -⟩ | ⟨h, -⟩ | ⟨h, -⟩ | ⟨h, -⟩ <;> rw [h] <;> rfl

/-- An END taken in RUN closes the transaction (R167). -/
theorem endEvent_closes {s : State} (h : s.phase = .run) : (endEvent s).phase = .idle ∧ (endEvent s).done = true := by
  rcases endEvent_cases s with ⟨-, h'⟩ | ⟨c, h', -⟩ | ⟨h', -⟩ | ⟨h', -⟩ | ⟨h', -⟩ | ⟨h', -⟩ | ⟨h', -⟩
  · rw [h] at h'; contradiction
  all_goals rw [h']; exact ⟨rfl, rfl⟩

@[simp] theorem takeSymbols_nil (s : State) : takeSymbols [] s = s := rfl

@[simp] theorem takeSymbols_cons (c : Byte) (rest : List Byte) (s : State) :
    takeSymbols (c :: rest) s = takeSymbols rest (symEvent c s) := rfl

theorem takeSymbols_append (x y : List Byte) (s : State) : takeSymbols (x ++ y) s = takeSymbols y (takeSymbols x s) := by
  simp [takeSymbols, List.foldl_append]

/-! Whole transactions. -/

theorem transaction_closes (op : Operation) (arg : BitVec 16) (syms : List Byte) (s : State) :
    (transaction op arg syms s).phase = .idle ∧ (transaction op arg syms s).done = true :=
  endEvent_closes (by simp)

@[simp] theorem transaction_opQ (op : Operation) (arg : BitVec 16) (syms : List Byte) (s : State) :
    (transaction op arg syms s).opQ = op := by simp [transaction]

@[simp] theorem transaction_argQ (op : Operation) (arg : BitVec 16) (syms : List Byte) (s : State) :
    (transaction op arg syms s).argQ = arg := by simp [transaction]

@[simp] theorem transaction_input (op : Operation) (arg : BitVec 16) (syms : List Byte) (s : State) :
    (transaction op arg syms s).input = s.input := by simp [transaction]

@[simp] theorem transaction_readings (op : Operation) (arg : BitVec 16) (syms : List Byte) (s : State) :
    (transaction op arg syms s).readings = s.readings := by simp [transaction]

/-! PBUF keeps its canonical form (R51). -/

theorem memoryWf_takeSymbol (cls : CharClass) (v : Nibble) (c : Byte) (s : State) (h : memoryWf s.pbuf = true) :
    memoryWf (takeSymbol cls v c s).pbuf = true := by
  rcases takeSymbol_cases cls v c s with ⟨h', -⟩ | ⟨h', -⟩ | ⟨h', -⟩ | ⟨h', -⟩ | ⟨h', -⟩ <;> rw [h']
  · exact h
  · exact h
  · exact h
  · exact h
  · exact memoryWf_storeByte _ _ _ h

theorem memoryWf_takeSymbols (syms : List Byte) (s : State) (h : memoryWf s.pbuf = true) :
    memoryWf (takeSymbols syms s).pbuf = true := by
  induction syms generalizing s with
  | nil => exact h
  | cons c rest ih => exact ih _ (memoryWf_takeSymbol _ _ _ _ h)

theorem memoryWf_transaction (op : Operation) (arg : BitVec 16) (syms : List Byte) (s : State) (h : memoryWf s.pbuf = true) :
    memoryWf (transaction op arg syms s).pbuf = true := by
  rw [transaction, endEvent_pbuf]
  exact memoryWf_takeSymbols syms _ h

theorem memoryWf_reset : memoryWf State.reset.pbuf = true := rfl

/-! `exec` by instruction: each arm is its meaning. -/

theorem exec_nop (s : State) : exec .nop s = execNop s := rfl
theorem exec_decode (arg : BitVec 16) (s : State) : exec (.decode arg) s = execDecode arg s := rfl
theorem exec_sumbytes (arg : BitVec 16) (s : State) : exec (.sumbytes arg) s = execSumbytes arg s := rfl
theorem exec_derivechk (arg : BitVec 16) (s : State) : exec (.derivechk arg) s = execDerivechk arg s := rfl
theorem exec_verify (arg : BitVec 16) (s : State) : exec (.verify arg) s = execVerify arg s := rfl
theorem exec_sym (c : Byte) (s : State) : exec (.sym c) s = execSym c s := rfl
theorem exec_endTx (s : State) : exec .endTx s = execEndTx s := rfl
theorem exec_frame (bytes : List Byte) (s : State) : exec (.frame bytes) s = execFrame bytes s := rfl
theorem exec_char0 (s : State) : exec .char0 s = execChar0 s := rfl
theorem exec_char1 (s : State) : exec .char1 s = execChar1 s := rfl
theorem exec_char2 (s : State) : exec .char2 s = execChar2 s := rfl
theorem exec_char3 (s : State) : exec .char3 s = execChar3 s := rfl
theorem exec_char4 (s : State) : exec .char4 s = execChar4 s := rfl
theorem exec_char5 (s : State) : exec .char5 s = execChar5 s := rfl
theorem exec_char6 (s : State) : exec .char6 s = execChar6 s := rfl
theorem exec_char7 (s : State) : exec .char7 s = execChar7 s := rfl
theorem exec_char8 (s : State) : exec .char8 s = execChar8 s := rfl
theorem exec_char9 (s : State) : exec .char9 s = execChar9 s := rfl
theorem exec_charA (s : State) : exec .charA s = execCharA s := rfl
theorem exec_charB (s : State) : exec .charB s = execCharB s := rfl
theorem exec_charC (s : State) : exec .charC s = execCharC s := rfl
theorem exec_charD (s : State) : exec .charD s = execCharD s := rfl
theorem exec_charE (s : State) : exec .charE s = execCharE s := rfl
theorem exec_charF (s : State) : exec .charF s = execCharF s := rfl
theorem exec_charLowerA (s : State) : exec .charLowerA s = execCharLowerA s := rfl
theorem exec_charLowerB (s : State) : exec .charLowerB s = execCharLowerB s := rfl
theorem exec_charLowerC (s : State) : exec .charLowerC s = execCharLowerC s := rfl
theorem exec_charLowerD (s : State) : exec .charLowerD s = execCharLowerD s := rfl
theorem exec_charLowerE (s : State) : exec .charLowerE s = execCharLowerE s := rfl
theorem exec_charLowerF (s : State) : exec .charLowerF s = execCharLowerF s := rfl
theorem exec_charLf (s : State) : exec .charLf s = execCharLf s := rfl
theorem exec_charCr (s : State) : exec .charCr s = execCharCr s := rfl
theorem exec_charOther (c : Byte) (s : State) : exec (.charOther c) s = execCharOther c s := rfl
theorem exec_genchk (bytes : List Byte) (s : State) : exec (.genchk bytes) s = execGenchk bytes s := rfl
theorem exec_decodeln (text : List Byte) (s : State) : exec (.decodeln text) s = execDecodeln text s := rfl
theorem exec_check (text : List Byte) (s : State) : exec (.check text) s = execCheck text s := rfl

end Sys2Proof.Machine
end

