-- ==== Sys2Proof/Laws/PerInstr.lean ====
section
/-! SUPPORT. The statements that speak of every instruction as syntax, one lemma per constructor. -/

namespace Sys2Proof.Laws.EncodingKeepsItsRow

/-- An encoded instruction is an event, never a reset step (R160), and stands for at least one event word (R83, R87). -/
def Statement (i : Instr) : Prop := isReset (encode i) = false ∧ eventWords i ≠ []

theorem nop : Statement .nop := ⟨rfl, List.cons_ne_nil _ _⟩
theorem decode (arg : BitVec 16) : Statement (.decode arg) := ⟨rfl, List.cons_ne_nil _ _⟩
theorem sumbytes (arg : BitVec 16) : Statement (.sumbytes arg) := ⟨rfl, List.cons_ne_nil _ _⟩
theorem derivechk (arg : BitVec 16) : Statement (.derivechk arg) := ⟨rfl, List.cons_ne_nil _ _⟩
theorem verify (arg : BitVec 16) : Statement (.verify arg) := ⟨rfl, List.cons_ne_nil _ _⟩
theorem sym (c : Byte) : Statement (.sym c) := ⟨rfl, List.cons_ne_nil _ _⟩
theorem endTx : Statement .endTx := ⟨rfl, List.cons_ne_nil _ _⟩
theorem frame (bytes : List Byte) : Statement (.frame bytes) := ⟨rfl, List.cons_ne_nil _ _⟩
theorem char0 : Statement .char0 := ⟨rfl, List.cons_ne_nil _ _⟩
theorem char1 : Statement .char1 := ⟨rfl, List.cons_ne_nil _ _⟩
theorem char2 : Statement .char2 := ⟨rfl, List.cons_ne_nil _ _⟩
theorem char3 : Statement .char3 := ⟨rfl, List.cons_ne_nil _ _⟩
theorem char4 : Statement .char4 := ⟨rfl, List.cons_ne_nil _ _⟩
theorem char5 : Statement .char5 := ⟨rfl, List.cons_ne_nil _ _⟩
theorem char6 : Statement .char6 := ⟨rfl, List.cons_ne_nil _ _⟩
theorem char7 : Statement .char7 := ⟨rfl, List.cons_ne_nil _ _⟩
theorem char8 : Statement .char8 := ⟨rfl, List.cons_ne_nil _ _⟩
theorem char9 : Statement .char9 := ⟨rfl, List.cons_ne_nil _ _⟩
theorem charA : Statement .charA := ⟨rfl, List.cons_ne_nil _ _⟩
theorem charB : Statement .charB := ⟨rfl, List.cons_ne_nil _ _⟩
theorem charC : Statement .charC := ⟨rfl, List.cons_ne_nil _ _⟩
theorem charD : Statement .charD := ⟨rfl, List.cons_ne_nil _ _⟩
theorem charE : Statement .charE := ⟨rfl, List.cons_ne_nil _ _⟩
theorem charF : Statement .charF := ⟨rfl, List.cons_ne_nil _ _⟩
theorem charLowerA : Statement .charLowerA := ⟨rfl, List.cons_ne_nil _ _⟩
theorem charLowerB : Statement .charLowerB := ⟨rfl, List.cons_ne_nil _ _⟩
theorem charLowerC : Statement .charLowerC := ⟨rfl, List.cons_ne_nil _ _⟩
theorem charLowerD : Statement .charLowerD := ⟨rfl, List.cons_ne_nil _ _⟩
theorem charLowerE : Statement .charLowerE := ⟨rfl, List.cons_ne_nil _ _⟩
theorem charLowerF : Statement .charLowerF := ⟨rfl, List.cons_ne_nil _ _⟩
theorem charLf : Statement .charLf := ⟨rfl, List.cons_ne_nil _ _⟩
theorem charCr : Statement .charCr := ⟨rfl, List.cons_ne_nil _ _⟩
theorem charOther (c : Byte) : Statement (.charOther c) := ⟨rfl, List.cons_ne_nil _ _⟩
theorem genchk (bytes : List Byte) : Statement (.genchk bytes) := ⟨rfl, List.cons_ne_nil _ _⟩
theorem decodeln (text : List Byte) : Statement (.decodeln text) := ⟨rfl, List.cons_ne_nil _ _⟩
theorem check (text : List Byte) : Statement (.check text) := ⟨rfl, List.cons_ne_nil _ _⟩

end Sys2Proof.Laws.EncodingKeepsItsRow
end

