-- ==== Sys2Proof/Laws/Run.lean ====
section
/-! SUPPORT. Runs: one step at a time, and the edges of event words. -/

namespace Sys2Proof.Safety

open Sys2Proof.Machine

theorem run_zero (s : State) : run 0 s = .next s := rfl

theorem run_succ_of_next {k : Nat} {s t : State} (h : step s = .next t) : run (k + 1) s = run k t := by
  have h' : Sys2Proof.core.step s = .next t := h
  simp only [run, Host.Core.run, h']
  rfl

/-- The item that the host presents first is the one the step takes. -/
theorem step_presenting {item : HostInput} (h : isReset item = false) (items : List HostInput) (s : State) :
    step (presenting (item :: items) s) = exec (decodeInput item) (presenting items s) := by
  unfold step
  rw [nextInput_of_cons (s := presenting (item :: items) s) rfl]
  simp only [h, Bool.false_eq_true, if_false]
  rfl

theorem run_presenting_cons {item : HostInput} (h : isReset item = false) (items : List HostInput) (s t : State)
    (he : exec (decodeInput item) (presenting items s) = .next t) :
    run (item :: items).length (presenting (item :: items) s) = run items.length t :=
  run_succ_of_next ((step_presenting h items s).trans he)

theorem portsWord_portsOfWord (w : EventWord) : portsWord (portsOfWord w) = w := by
  apply BitVec.eq_of_getLsbD_eq
  intro i hi
  simp only [portsWord, portsOfWord, BitVec.getLsbD_append, BitVec.getLsbD_extractLsb']
  split
  · rename_i h
    simp [h]
  · split
    · rename_i h1 h2
      simp only [h2, decide_true, Bool.true_and]
      congr 1
      omega
    · split
      · rename_i h1 h2 h3
        simp only [h3, decide_true, Bool.true_and]
        congr 1
        omega
      · have : i - 8 - 16 - 2 < 2 := by omega
        simp only [this, decide_true, Bool.true_and]
        congr 1
        omega

end Sys2Proof.Safety
end

