-- ==== Sys2Proof/Tests/Slice0.lean ====
section
/-! SUPPORT. The model's own tests: ill-formed terms, words written out from 30_encoding.md, vectors of 95_test_vectors.md, and for
every statement with hypotheses a state and operands that meet them. -/

namespace Sys2Proof.Tests

open Sys2Proof Sys2Proof.Machine Sys2Proof.Safety

/-- A text given by its characters. -/
def text (cs : List Char) : List Byte := cs.map (fun c => BitVec.ofNat 8 c.toNat)

/-- Whether an outcome is a next state with the given property. -/
def after (r : Result) (p : State → Bool) : Bool :=
  match r with
  | .next t => p t
  | _ => false

/-- Program P1's frame as bytes. -/
def shortFrame : List Byte := [0x7E, 0x00, 0x03, 0x01, 0x02, 0x03, 0xF9]

/-- The end state of program P1. -/
def delivered : State := transaction .decode 0 (frameText shortFrame) State.reset

/-- A state with a DECODE open. -/
def decoding : State := openTransaction .decode 0 State.reset

/-- A state with a START of another operation taken. -/
def opened (op : Operation) (arg : BitVec 16) : State := openTransaction op arg State.reset

/-- A DECODE whose next byte has frame index `i`, with a high digit `A` held. -/
def pairing (i : BitVec 17) : State := { decoding with nib := true, hi := 0xA, bidx := i }

/-- A frame of the greatest length, 65539 bytes (R71). -/
def longFrame : List Byte := [0x7E, 0xFF, 0xFF] ++ List.replicate 65536 0

/-! Well-formedness: each check refuses an ill-formed term. -/

/-- R71: fewer than 4 bytes. -/
theorem test_frame_too_short : (Instr.frame [0x7E, 0x00, 0x00]).WellFormed = false := by decide

/-- R104: another delimiter. -/
theorem test_frame_wrong_delimiter : (Instr.frame [0x7F, 0x00, 0x00, 0xFF]).WellFormed = false := by decide

/-- R105: a length field one too great, one too small. -/
theorem test_frame_wrong_length :
    (Instr.frame [0x7E, 0x00, 0x02, 0x01, 0xFE]).WellFormed = false ∧
    (Instr.frame [0x7E, 0x00, 0x00, 0x01, 0xFE]).WellFormed = false := by decide

/-- R74: a character with a row of its own is no CHAR_OTHER. -/
theorem test_charOther_of_a_row :
    (Instr.charOther 0x30).WellFormed = false ∧ (Instr.charOther 0x66).WellFormed = false ∧
    (Instr.charOther 0x0A).WellFormed = false ∧ (Instr.charOther 0x0D).WellFormed = false := by decide

/-- The neighbours of the digit ranges are CHAR_OTHER (T7). -/
theorem test_charOther_neighbours :
    ∀ c ∈ ([0x2F, 0x3A, 0x40, 0x47, 0x60, 0x67, 0x20, 0x09, 0x00, 0x0B, 0x0C, 0x7F, 0x80, 0xFF] : List Byte),
      (Instr.charOther c).WellFormed = true ∧ decodeChar c = .charOther c := by decide

/-! Words written out from R83 and the opcode table. -/

/-- EVW: every event, and words with set bits that the event ignores (R84). -/
theorem test_decode_events :
    decodeTableWord 32 0x0000000 = some .nop ∧ decodeTableWord 32 0x3FFFFFF = some .nop ∧
    decodeTableWord 32 0x4000000 = some (.decode 0) ∧ decodeTableWord 32 0x5000000 = some (.sumbytes 0) ∧
    decodeTableWord 32 0x6008100 = some (.derivechk 0x0081) ∧ decodeTableWord 32 0x7017E00 = some (.verify 0x017E) ∧
    decodeTableWord 32 0x8000037 = some (.sym 0x37) ∧ decodeTableWord 32 0xBFFFF45 = some (.sym 0x45) ∧
    decodeTableWord 32 0xC000000 = some .endTx ∧ decodeTableWord 32 0xFFFFFFF = some .endTx := by decide

/-- FRAME, and the codes of the CHAR rows (R75 gives the ranges from 0x30, 0x41 and 0x61). -/
theorem test_decode_characters :
    decodeTableWord 8 0x7E = some (.frame [0x7E, 0, 0, 0]) ∧
    ([0x30, 0x31, 0x32, 0x33, 0x34, 0x35, 0x36, 0x37, 0x38, 0x39].map (decodeTableWord 8)
      = [.char0, .char1, .char2, .char3, .char4, .char5, .char6, .char7, .char8, .char9].map some) ∧
    ([0x41, 0x42, 0x43, 0x44, 0x45, 0x46].map (decodeTableWord 8)
      = [.charA, .charB, .charC, .charD, .charE, .charF].map some) ∧
    ([0x61, 0x62, 0x63, 0x64, 0x65, 0x66].map (decodeTableWord 8)
      = [.charLowerA, .charLowerB, .charLowerC, .charLowerD, .charLowerE, .charLowerF].map some) ∧
    decodeTableWord 8 0x0A = some .charLf ∧ decodeTableWord 8 0x0D = some .charCr ∧
    decodeTableWord 8 0x20 = some (.charOther 0x20) := by decide

/-- PSEUDO: the items of R88 decode to their rows. -/
theorem test_decode_pseudo :
    decodeInput (.genchk [1]) = .genchk [1] ∧ decodeInput (.decodeln [0x37]) = .decodeln [0x37] ∧
    decodeInput (.check []) = .check [] := by decide

/-- A number that is no word is rejected. -/
theorem test_decode_rejects :
    tableItem 32 0x10000000 = .error .bitsAboveWord ∧ tableItem 8 0x100 = .error .bitsAboveWord ∧
    tableItem 12 0 = .error .noSuchWidth := ⟨rfl, rfl, rfl⟩

/-- A word placed for the next step runs as the first instruction after reset. -/
theorem test_withFetchWord : step (State.reset.withFetchWord 32 0x6010000) = exec (.derivechk 0x0100) State.reset := rfl

/-! Vectors of 95_test_vectors.md. -/

/-- Vector A1: every field of a whole frame, and the reading -43. -/
theorem test_check_A1 :
    after (exec (.check (text ['7', 'E', '0', '0', '1', '0', '9', '7', '0', '1', '0', '0', '1', '3', 'A', '2'] ++
        text ['0', '0', '4', '0', 'A', 'D', '1', '4', '2', 'E', 'F', 'F', 'F', 'E', '4', '4'] ++
        text ['4', '2', '0', '0', '2', 'B', 'D', '5'])) State.reset)
      (fun t => decide (t.rc = 0 ∧ t.cause = 0 ∧ t.length = 0x0010 ∧ t.frameType = 0x97 ∧ t.frameId = 0x01 ∧
        t.destinationAddress64 = 0x0013A20040AD142E ∧ t.destinationAddress16 = 0xFFFE ∧ t.atCommand = 0x4442 ∧ t.status = 0 ∧
        t.response = 0x2B ∧ t.fvalid = 0b1111111 ∧ t.checksum = 0xD5 ∧ t.sumPayload = 0x2A ∧ t.checksumCalc = 0xD5 ∧
        t.sum = 0xFF ∧ t.verdict = true ∧ t.signalStrength = 0x1D5 ∧ t.readings = [0x1D5] ∧ t.payloadCount = 16)) = true := by decide +kernel

/-- Vector A4: the response byte changed; the verdict is false and the reading 0. -/
theorem test_check_A4 :
    after (exec (.check (text ['7', 'E', '0', '0', '1', '0', '9', '7', '0', '1', '0', '0', '1', '3', 'A', '2'] ++
        text ['0', '0', '4', '0', 'A', 'D', '1', '4', '2', 'E', 'F', 'F', 'F', 'E', '4', '4'] ++
        text ['4', '2', '0', '0', '2', 'C', 'D', '5'])) State.reset)
      (fun t => decide (t.rc = 0 ∧ t.response = 0x2C ∧ t.checksumCalc = 0xD4 ∧ t.sum = 0 ∧ t.verdict = false ∧ t.signalStrength = 0x1D4 ∧
        t.readings = [0])) = true := by decide +kernel

/-- Vector V3: the source's own example string, with its space. -/
theorem test_decodeln_V3 :
    after (exec (.decodeln (text ['7', 'E', '0', '0', '0', 'F', '1', '7', '0', '1', '0', '0', '1', ' ', '3', 'A'] ++
        text ['2', '0', '0', '4', '0', 'A', 'D', '1', '4', '2', 'E', 'F', 'F', 'F', 'E', '0'] ++
        text ['2', '4', '4', '4', '2', 'F', 'F'])) State.reset)
      (fun t => decide (t.rc = 1 ∧ t.cause = 1 ∧ t.nonhex = true ∧ t.nib = true ∧ t.bidx = 19 ∧ t.frameType = 0 ∧ t.frameOk = false)) = true := by decide +kernel

/-- Vector V2: the response of a 19-byte frame is its checksum byte. -/
theorem test_decodeln_V2 :
    after (exec (.decodeln (text ['7', 'E', '0', '0', '0', 'F', '1', '7', '0', '1', '0', '0', '1', '3', 'A', '2'] ++
        text ['0', '0', '4', '0', 'A', 'D', '1', '4', '2', 'E', 'F', 'F', 'F', 'E', '0', '2'] ++
        text ['4', '4', '4', '2', '7', 'E'])) State.reset)
      (fun t => decide (t.rc = 0 ∧ t.frameType = 0x17 ∧ t.atCommand = 0x0244 ∧ t.status = 0x42 ∧ t.response = 0x7E ∧ t.checksum = 0x7E ∧
        t.sumPayload = 0x81 ∧ t.checksumCalcHex = 0x3745 ∧ t.reading = 0x182 ∧ t.payloadCount = 15)) = true := by decide +kernel

/-- Program P1: a short frame; the absent address field reads as zero at END. -/
theorem test_frame_P1 :
    after (exec (.frame shortFrame) State.reset)
      (fun t => decide (t.phase = .idle ∧ t.done = true ∧ t.rc = 0 ∧ t.payloadCount = 3 ∧ t.sum = 0xFF ∧ t.verdict = true ∧ t.sumPayload = 0x06 ∧
        t.checksumCalc = 0xF9 ∧ t.destinationAddress64 = 0 ∧ t.frameOk = true ∧ t.fvalid = 0b0000011 ∧ t.hi = 0xF ∧ t.bidx = 7 ∧
        t.acc = 0xFF ∧ t.pbuf = [(0, 1), (1, 2), (2, 3), (3, 0xF9)])) = true := by decide +kernel

/-- Vector A8: the least frame. -/
theorem test_frame_A8 :
    after (exec (.frame [0x7E, 0x00, 0x00, 0xFF]) State.reset)
      (fun t => decide (t.rc = 0 ∧ t.length = 0 ∧ t.payloadCount = 0 ∧ t.checksum = 0xFF ∧ t.sumPayload = 0 ∧ t.checksumCalc = 0xFF ∧
        t.verdict = true ∧ t.frameType = 0xFF ∧ t.fvalid = 0b0000001)) = true := by decide +kernel

/-- Vector V5: the generated checksum of the example payload. -/
theorem test_genchk_V5 :
    after (exec (.genchk [0x17, 0x01, 0x00, 0x13, 0xA2, 0x00, 0x40, 0xAD, 0x14, 0x2E, 0xFF, 0xFE, 0x02, 0x44, 0x42]) State.reset)
      (fun t => decide (t.checksumCalc = 0x7E ∧ t.sum = 0 ∧ t.rc = 0 ∧ t.argQ = 0x0081 ∧ t.opQ = .deriveChk)) = true := by decide +kernel

/-- P1's table at its last byte before END: frame bytes 5 and 6 stand in the address register. -/
theorem test_charNine_P1 :
    after (exec .char9 (takeSymbols (text ['7', 'E', '0', '0', '0', '3', '0', '1', '0', '2', '0', '3', 'F']) decoding))
      (fun t => decide (t.nib = false ∧ t.bidx = 7 ∧ t.acc = 0xFF ∧ t.checksum = 0xF9 ∧
        t.destinationAddress64 = 0x03F9000000000000)) = true := by decide +kernel

/-- T7: a digit row of each range holds its value; the others are classified. -/
theorem test_digit_rows :
    after (exec .char0 decoding) (fun t => decide (t.nib = true ∧ t.hi = 0)) = true ∧
    after (exec .char9 decoding) (fun t => decide (t.nib = true ∧ t.hi = 9)) = true ∧
    after (exec .charA decoding) (fun t => decide (t.nib = true ∧ t.hi = 10)) = true ∧
    after (exec .charF decoding) (fun t => decide (t.nib = true ∧ t.hi = 15)) = true ∧
    after (exec .charLowerA decoding) (fun t => decide (t.nib = true ∧ t.hi = 10)) = true ∧
    after (exec .charLowerF decoding) (fun t => decide (t.nib = true ∧ t.hi = 15)) = true := by decide +kernel

/-- T7, R110: terminators are kept apart, and a character after one is nonhex. -/
theorem test_terminator_rows :
    after (exec .charLf decoding) (fun t => decide (t.tseen = true ∧ t.nib = false)) = true ∧
    after (exec .charCr decoding) (fun t => decide (t.tseen = true ∧ t.nonhex = false)) = true ∧
    after (exec (.charOther 0x20) decoding) (fun t => decide (t.nonhex = true ∧ t.nib = true ∧ t.hi = 0)) = true ∧
    after (exec .char7 { decoding with tseen := true }) (fun t => decide (t.nonhex = true ∧ t.hi = 7)) = true := by
  decide +kernel

/-- Vector S14: in SUMBYTES a symbol is a byte value and is never classified. -/
theorem test_sumbytes_S14 :
    after (exec .endTx (takeSymbols [0x0A, 0x0D, 0x20, 0x47] (opened .sumBytes 0)))
      (fun t => decide (t.sum = 0x7E ∧ t.sumHex = 0x3745 ∧ t.rc = 0 ∧ t.done = true)) = true := by decide +kernel

/-- Vectors K7, K8, K9: the domain of DERIVECHK. -/
theorem test_derivechk_K8 :
    after (exec .endTx (opened .deriveChk 0x00FF)) (fun t => decide (t.rc = 0 ∧ t.checksumCalc = 0)) = true ∧
    after (exec .endTx (opened .deriveChk 0x0100)) (fun t => decide (t.rc = 2 ∧ t.cause = 6 ∧ t.checksumCalc = 0)) = true ∧
    after (exec .endTx (opened .deriveChk 0x0181)) (fun t => decide (t.rc = 2 ∧ t.argQ = 0x0181)) = true ∧
    after (exec (.derivechk 0x0100) delivered) (fun t => decide (t.rc = 0 ∧ t.sum = 0 ∧ t.busy = true)) = true := by
  decide +kernel

/-- Vector F10: VERIFY ignores the high byte of its argument, and keeps it. -/
theorem test_verify_F10 :
    after (exec .endTx (takeSymbols [0x81] (opened .verify 0x017E)))
      (fun t => decide (t.sum = 0xFF ∧ t.verdict = true ∧ t.argQ = 0x017E ∧ t.acc = 0x81)) = true := by decide +kernel

/-- Vector F5: one byte changed. -/
theorem test_verify_F5 :
    after (exec .endTx (takeSymbols [1, 2, 4] (opened .verify 0x00F9)))
      (fun t => decide (t.sum = 0 ∧ t.verdict = false ∧ t.rc = 0)) = true := by decide +kernel

/-- Vectors Q1, Q2, Q3: events with no transaction open, and the empty text. -/
theorem test_sequencing_Q1_Q3 :
    after (exec (.sym 0x37) State.reset) (fun t => decide (t = State.reset)) = true ∧
    after (exec .endTx State.reset) (fun t => decide (t = State.reset)) = true ∧
    after (exec .endTx decoding) (fun t => decide (t.rc = 1 ∧ t.cause = 3 ∧ t.done = true)) = true := by decide +kernel

/-- Vector Q6: a START in RUN abandons the DECODE. -/
theorem test_sumbytes_Q6 :
    after (exec (.sumbytes 0) (takeSymbols (text ['7', 'E']) decoding))
      (fun t => decide (t.busy = true ∧ t.opQ = .sumBytes ∧ t.bidx = 0 ∧ t.startDelimiter = 0 ∧ t.checksum = 0 ∧
        t.done = false)) = true := by decide +kernel

/-- Vector Q8: a START clears the results and leaves PBUF. -/
theorem test_verify_Q8 :
    after (exec (.verify 0x00FF) (transaction .decode 0 (frameText [0x7E, 0x00, 0x00, 0xFF]) State.reset))
      (fun t => decide (t.checksum = 0 ∧ t.done = false ∧ t.frameType = 0 ∧ t.pbData 0 = 0xFF)) = true := by decide +kernel

/-- Vector Q10: reset wins over the symbol of its step. -/
theorem test_reset_Q10 :
    after (step (presenting [.edge { rst := true, ev := 2, op := 0, arg := 0, sym := 0x45 }] (takeSymbols (text ['7']) decoding)))
      (fun t => decide (t = State.reset)) = true := by decide +kernel

/-- T9: stale cells stay, and a byte of a failing text is stored. -/
theorem test_pbuf_T9 :
    after (exec (.decodeln (text ['7', 'E', '0', '0', '0', '0', 'F', 'G']))
        (transaction .decode 0 (text ['7', 'E', '0', '0', '0', '1', '8', '8', '7', '7']) delivered))
      (fun t => decide (t.rc = 1 ∧ t.cause = 1 ∧ t.pbuf = [(0, 0xF0), (1, 0x77), (2, 0x03), (3, 0xF9)])) = true := by
  decide +kernel

/-- R25: the byte counter saturates, and a byte past the buffer is not stored (R52). -/
theorem test_sym_saturates :
    after (exec (.sym 0x31) (pairing 131071)) (fun t => decide (t.bidx = 131071 ∧ t.acc = 0xA1 ∧ t.pbuf = [])) = true := by
  decide +kernel

/-- Program P3: the batch of four lines has the readings -43, 0, 0, -44. -/
theorem test_batch_P3 :
    after (run 4 (presenting (([
(text ['7', 'E', '0', '0', '1', '0', '9', '7', '0', '1', '0', '0', '1', '3', 'A', '2'] ++
        text ['0', '0', '4', '0', 'A', 'D', '1', '4', '2', 'E', 'F', 'F', 'F', 'E', '4', '4'] ++
        text ['4', '2', '0', '0', '2', 'B', 'D', '5', '\n']),
        (text ['7', 'E', '0', '0', '1', '0', '9', '7', '0', '1', '0', '0', '1', '3', 'A', '2'] ++
        text ['0', '0', '4', '0', 'A', 'D', '1', '4', '2', 'E', 'F', 'F', 'F', 'E', '4', '4'] ++
        text ['4', '2', '0', '0', '2', 'C', 'D', '5', '\n']),
        (text ['7', 'E', '0', '0', '1', '0', '9', '7', '0', '1', '0', '0', '1', '3', 'A', '2'] ++
        text ['0', '0', '4', '0', 'A', 'D', '1', '4', '2', 'E', 'F', 'F', 'F', 'E', '4', '4'] ++
        text ['4', '2', '0', '0', '2', 'B', 'D', '\n']),
        (text ['7', 'E', '0', '0', '1', '0', '9', '7', '0', '1', '0', '0', '1', '3', 'A', '2'] ++
        text ['0', '0', '4', '0', 'A', 'D', '1', '4', '2', 'E', 'F', 'F', 'F', 'E', '4', '4'] ++
        text ['4', '2', '0', '0', '2', 'C', 'D', '4', '\n'])
      ] : List (List Byte)).map .check) State.reset)) (fun t => decide (t.readings = [0x1D5, 0, 0, 0x1D4])) = true := by
  decide +kernel

/-- T6: `signal_strength` of a response byte. -/
theorem test_signal_strength_T6 :
    ([0x00, 0x01, 0x2B, 0x7E, 0x7F, 0x80, 0x87, 0xFF] : List Byte).map (fun r => { State.reset with response := r }.signalStrength) =
      [0x000, 0x1FF, 0x1D5, 0x182, 0x181, 0x180, 0x179, 0x101] := by decide +kernel

/-- T7: `hex2`. -/
theorem test_hex2_T7 :
    ([0x00, 0x05, 0x0A, 0x7E, 0xAB, 0xFF] : List Byte).map hex2 = [0x3030, 0x3035, 0x3041, 0x3745, 0x4142, 0x4646] := by
  decide +kernel

/-! Every statement with hypotheses has a state and operands that meet them, clause by clause. -/

/-- EventWordFormat: words under each mask, with ignored bits set. -/
theorem test_meets_EventWordFormat :
    (0x3FFFFFF#28 &&& 0xC000000#28 = 0x0000000#28) ∧ (0x4FFFFFF#28 &&& 0xF000000#28 = 0x4000000#28) ∧
    (0x5000001#28 &&& 0xF000000#28 = 0x5000000#28) ∧ (0x6FFFF00#28 &&& 0xF000000#28 = 0x6000000#28) ∧
    (0x7017E00#28 &&& 0xF000000#28 = 0x7000000#28) ∧ (0xBFFFFFF#28 &&& 0xC000000#28 = 0x8000000#28) ∧
    (0xFFFFFFF#28 &&& 0xC000000#28 = 0xC000000#28) := by decide

/-- DecodeEncodeAgree: well-formed instructions of every format, and an event that is one word. -/
theorem test_meets_DecodeEncodeAgree :
    (∀ i ∈ [Instr.verify 0xFFFF, .sym 0xFF, .frame [0x7E, 0, 0, 0], .charLowerF, .charOther 0xFF, .genchk [1], .decodeln [], .check [7]],
      i.WellFormed = true) ∧
    encode (.verify 0x017E) = .edge (portsOfWord 0x7017E00#28) ∧ eventWords (.verify 0x017E) = [0x7017E00#28] := by decide

/-- CharacterClassesAndDigits, TokenValues: the ends of the digit ranges, and a value outside them. -/
theorem test_meets_CharacterClassesAndDigits :
    (∀ c ∈ ([0x30, 0x39, 0x41, 0x46, 0x61, 0x66] : List Byte), classify c = .hex) ∧ classify 0x40 ≠ .hex ∧
    (tokenValue 0x61 0x66 = 0xAF) := by decide

/-- StepRunsDecodedInstruction, ResetStep, ResetRegisters, IdlePortIsNop, EventsOutsideATransaction, ResultsStableUntilStart: the host's items, and a
state in IDLE. -/
theorem test_meets_step_statements :
    (presenting [.edge (portsOfWord 0x8000037#28)] decoding).input = [.edge (portsOfWord 0x8000037#28)] ∧
    isReset (.edge (portsOfWord 0x8000037#28)) = false ∧ isReset (.frame shortFrame) = false ∧
    (presenting [.edge { idlePorts with rst := true }] delivered).input = .edge { idlePorts with rst := true } :: [] ∧
    { idlePorts with rst := true }.rst = true ∧ State.reset.input = [] ∧ State.reset.phase = .idle ∧
    delivered.phase = .idle ∧ [nopWord, symWord 0x37, endWord].all (fun w => decide (w.extractLsb' 26 2 ≠ 1#2)) = true := by decide +kernel

/-- UnreadInputsAreIgnored: pairs of inputs that differ only where the step does not look. -/
theorem test_meets_UnreadInputsAreIgnored :
    ∀ pq ∈ [(({ rst := true, ev := 1, op := 0, arg := 0, sym := 0 } : Ports), ({ rst := true, ev := 3, op := 2, arg := 7, sym := 9 } : Ports)),
      ({ rst := false, ev := 1, op := 2, arg := 7, sym := 0 }, { rst := false, ev := 1, op := 2, arg := 7, sym := 0xFF }),
      ({ rst := false, ev := 2, op := 0, arg := 0, sym := 5 }, { rst := false, ev := 2, op := 3, arg := 0xFFFF, sym := 5 }),
      ({ rst := false, ev := 3, op := 0, arg := 0, sym := 0 }, { rst := false, ev := 3, op := 3, arg := 1, sym := 1 })],
      pq.1.rst = pq.2.rst ∧ (pq.1.rst = false → pq.1.ev = pq.2.ev ∧ (pq.1.ev = 1 → pq.1.op = pq.2.op ∧ pq.1.arg = pq.2.arg) ∧
        (pq.1.ev = 2 → pq.1.sym = pq.2.sym)) ∧ pq.1 ≠ pq.2 := by decide

/-- DecodeSymbol, DigitRowsInDecode, TerminatorAndOtherRowsInDecode: a DECODE with no digit held and with one held, at every frame
index where the layout changes. -/
theorem test_meets_DecodeSymbol :
    decoding.phase = .run ∧ decoding.opQ = .decode ∧ decoding.nib = false ∧ classify 0x0D = .term ∧ classify 0x20 ≠ .term ∧
    ([0, 1, 2, 3, 4, 5, 12, 13, 14, 15, 16, 17, 18, 19, 65538, 65539, 131070, 131071] : List (BitVec 17)).all (fun i =>
      decide ((pairing i).phase = .run ∧ (pairing i).opQ = .decode ∧ (pairing i).nib = true)) = true := by decide +kernel

/-- R52, R112 at those indices: which register the byte 0xA1 reaches, whether it is stored, and where the counter stands. -/
theorem test_commit_at_boundaries :
    ([0, 1, 2, 3, 4, 5, 12, 13, 14, 15, 16, 17, 18] : List (BitVec 17)).map (fun i => symEvent 0x31 (pairing i)) |>.map (fun t =>
      (t.startDelimiter, t.length, t.frameType, t.frameId, t.destinationAddress64, t.destinationAddress16, t.atCommand, t.status, t.response, t.fvalid))
    |> (· =
      [(0xA1, 0, 0, 0, 0, 0, 0, 0, 0, 0), (0, 0xA100, 0, 0, 0, 0, 0, 0, 0, 0), (0, 0x00A1, 0, 0, 0, 0, 0, 0, 0, 0),
       (0, 0, 0xA1, 0, 0, 0, 0, 0, 0, 1), (0, 0, 0, 0xA1, 0, 0, 0, 0, 0, 2), (0, 0, 0, 0, 0xA100000000000000, 0, 0, 0, 0, 0),
       (0, 0, 0, 0, 0xA1, 0, 0, 0, 0, 4), (0, 0, 0, 0, 0, 0xA100, 0, 0, 0, 0), (0, 0, 0, 0, 0, 0x00A1, 0, 0, 0, 8),
       (0, 0, 0, 0, 0, 0, 0xA100, 0, 0, 0), (0, 0, 0, 0, 0, 0, 0x00A1, 0, 0, 16), (0, 0, 0, 0, 0, 0, 0, 0xA1, 0, 32),
       (0, 0, 0, 0, 0, 0, 0, 0, 0xA1, 64)]) := by decide +kernel

/-- The cells written at the ends of the stored range (R52). -/
theorem test_commit_cells :
    ([2, 3, 4, 65538, 65539] : List (BitVec 17)).map (fun i => (symEvent 0x31 (pairing i)).pbuf) =
      [[], [(0, 0xA1)], [(1, 0xA1)], [(65535, 0xA1)], []] := by decide +kernel

/-- CharacterRowsOutsideDecode, SumbytesOperation, DerivechkOperation, VerifyOperation: the operations open, DERIVECHK on both sides
of its domain. -/
theorem test_meets_operations :
    (opened .sumBytes 0).phase = .run ∧ (opened .sumBytes 0).opQ = .sumBytes ∧
    (opened .deriveChk 0x00FF).phase = .run ∧ (opened .deriveChk 0x00FF).argQ.toNat ≤ 0xFF ∧
    (opened .deriveChk 0x0100).opQ = .deriveChk ∧ 0xFF < (opened .deriveChk 0x0100).argQ.toNat ∧
    (opened .verify 0x01FF).phase = .run ∧ (opened .verify 0x01FF).opQ = .verify := by decide +kernel

/-- EndOfDecode: a state for each clause, at the least byte counts. -/
theorem test_meets_EndOfDecode :
    ({ decoding with nonhex := true }.nonhex = true) ∧ ((pairing 3).nonhex = false ∧ (pairing 3).nib = true) ∧
    (decoding.nib = false ∧ { decoding with bidx := 3 }.bidx.toNat < 4) ∧
    (4 ≤ { decoding with bidx := 4 }.bidx.toNat ∧ { decoding with bidx := 4 }.startDelimiter ≠ 0x7E) ∧
    ({ decoding with bidx := 5, startDelimiter := 0x7E }.length.toNat ≠ { decoding with bidx := 5, startDelimiter := 0x7E }.bidx.toNat - 4) ∧
    ({ decoding with bidx := 65540, startDelimiter := 0x7E, length := 0 }.length.toNat ≠ 65540 - 4) ∧
    ({ decoding with bidx := 4, startDelimiter := 0x7E }.length.toNat = { decoding with bidx := 4, startDelimiter := 0x7E }.bidx.toNat - 4) ∧
    ({ decoding with bidx := 65539, startDelimiter := 0x7E, length := 0xFFFF }.length.toNat = 65539 - 4) := by decide +kernel

/-- The causes of those states (R113, R185). -/
theorem test_end_of_decode_causes :
    ([{ decoding with nonhex := true }, pairing 3, { decoding with bidx := 3 }, { decoding with bidx := 4 },
      { decoding with bidx := 5, startDelimiter := 0x7E }, { decoding with bidx := 65540, startDelimiter := 0x7E },
      { decoding with bidx := 4, startDelimiter := 0x7E }, { decoding with bidx := 65539, startDelimiter := 0x7E, length := 0xFFFF }] :
      List State).map (fun s => ((endEvent s).rc, (endEvent s).cause)) =
      [(1, 1), (1, 2), (1, 3), (1, 4), (1, 5), (1, 5), (0, 0), (0, 0)] := by decide +kernel

/-- ErrorPublication, ErrorsOnlyAtEnd: an END that publishes an error, of each operation that can. -/
theorem test_meets_error_statements :
    after (exec .endTx decoding) (fun t => decide (t = endEvent decoding)) = true ∧ (endEvent decoding).rc ≠ 0 ∧ (endEvent decoding).rc ≠ decoding.rc ∧
    decodeEvent 0xC000000#28 = .endTx ∧ (endEvent (opened .deriveChk 0x0100)).rc ≠ 0 ∧
    (opened .deriveChk 0x0100).phase = .run := by decide +kernel

/-- WhoWritesWhat: a START, a symbol and an END that answer a next state; a cell the symbol does not write; the quiet phases. -/
theorem test_meets_WhoWritesWhat :
    after (exec (.verify 1) delivered) (fun t => decide (t = { opened .verify 1 with pbuf := delivered.pbuf })) = true ∧
    after (exec (.sym 0x31) (pairing 3)) (fun t => decide (t = symEvent 0x31 (pairing 3))) = true ∧ pbufTarget (pairing 3).bidx.toNat ≠ some 1 ∧
    pbufTarget (pairing 65539).bidx.toNat ≠ some 65535 ∧ (opened .deriveChk 1).opQ = .deriveChk ∧
    after (exec .endTx delivered) (fun t => decide (t = delivered)) = true ∧
    after (exec .endTx decoding) (fun t => decide (t = endEvent decoding)) = true := by decide +kernel

/-- OnlyCommitsWritePbuf: a symbol that changes the first cell, and one that changes the last. -/
theorem test_meets_OnlyCommitsWritePbuf :
    decodeEvent 0x8000031#28 = .sym 0x31 ∧
    readCell (symEvent 0x31 (pairing 3)).pbuf 0 ≠ readCell (pairing 3).pbuf 0 ∧
    readCell (symEvent 0x31 (pairing 65538)).pbuf 65535 ≠ readCell (pairing 65538).pbuf 65535 := by decide +kernel

/-- R71: the greatest frame has 65539 bytes. -/
theorem longFrame_length : longFrame.length = 65539 := by
  unfold longFrame
  rw [List.length_append, List.length_replicate]
  rfl

/-- Its length field, 0xFFFF, is its payload's byte count. -/
theorem longFrame_shape : frameShape longFrame = true := by
  unfold frameShape
  rw [longFrame_length]
  unfold longFrame
  generalize List.replicate 65536 (0 : Byte) = rest
  rfl

/-- FrameRowDelivers, InstructionIsItsEvents: the least frame, P1's frame and the greatest frame. -/
theorem test_meets_FrameRowDelivers :
    frameShape [0x7E, 0x00, 0x00, 0xFF] = true ∧ frameShape shortFrame = true ∧ frameShape longFrame = true ∧
    0 + 3 < shortFrame.length ∧ shortFrame.length ≤ 4 + 3 ∧ longFrame.length = 65539 := by
  refine ⟨by decide, by decide, ?_, by decide, by decide, ?_⟩
  · exact longFrame_shape
  · exact longFrame_length

/-- DecodelnAgreesWithDecode, CheckTakesReading: a cell beyond the text's bytes. -/
theorem test_meets_text_statements : (text ['7', 'E', '0', '0', '0', '0', 'F', 'F', '\n']).length / 2 ≤ 1 + 3 := by decide

/-- TransactionAgreesWithFunction: event words with NOPs among them. -/
theorem test_meets_TransactionAgreesWithFunction :
    [nopWord, startWord .verify 0x017E, nopWord, symWord 0x81, nopWord, nopWord, endWord].filter isActive =
      transactionWords .verify 0x017E [0x81] := by decide

/-- StepKeepsMemoryForm: a state with cells listed that steps. -/
theorem test_meets_StepKeepsMemoryForm :
    memoryWf delivered.pbuf = true ∧ after (step delivered) (fun t => decide (t = delivered)) = true := by decide +kernel

/-- StepKeepsBlockInv, DerivedOutputs, DeliveredFrameChecksum: the end state of P1 meets the register invariant, with its frame. -/
theorem test_meets_BlockInv : BlockInv delivered ∧ delivered.frameOk = true := by
  refine ⟨⟨?_, ?_, ?_, ?_, ?_, ?_, ?_, ?_, fun _ => ⟨?_, ?_, ?_, ?_, ?_, ?_⟩, ?_, ?_, ?_, ?_⟩, ?_⟩ <;>
    (try unfold CodesAgree) <;> (try unfold NothingPublished) <;> (try unfold ResultsCleared) <;> (try unfold NoFrameData) <;>
    decide +kernel

/-- StepKeepsBlockInv: an error's end state. -/
theorem test_meets_BlockInv_error : BlockInv (endEvent (opened .deriveChk 0x0100)) := by
  refine ⟨?_, ?_, ?_, ?_, ?_, ?_, ?_, ?_, fun h => absurd h (by decide +kernel), ?_, ?_, ?_, ?_⟩ <;>
    (try unfold CodesAgree) <;> (try unfold NothingPublished) <;> (try unfold ResultsCleared) <;> (try unfold NoFrameData) <;>
    decide +kernel

/-- StepKeepsPayloadInv, DeliveredFrameChecksum: the end state of P1. -/
theorem test_meets_PayloadInv : PayloadInv delivered := by
  refine ⟨?_, ?_, ?_⟩ <;> decide +kernel

/-- A DECODE at frame index `i` whose `acc` and `checksum` are what PBUF holds. -/
def agreeing (i : BitVec 17) : State :=
  { decoding with
    bidx := i, acc := Functional.sumBytes (cells decoding (i.toNat - 3)), checksum := decoding.pbufByte (i.toNat - 4) }

/-- StepKeepsPayloadInv at the byte counts where its clauses begin and end. -/
theorem test_meets_PayloadInv_boundaries : ∀ i ∈ ([2, 3, 4, 65539, 65540] : List (BitVec 17)), PayloadInv (agreeing i) := by
  intro i _
  exact ⟨fun _ h => by
    have h0 : i.toNat - 3 = 0 := by
      have : i.toNat < 3 := h
      omega
    show Functional.sumBytes (cells decoding (i.toNat - 3)) = 0
    rw [h0]; rfl, fun _ _ _ => rfl, fun _ _ _ _ => rfl⟩

/-- DerivedOutputs: a frame with a response byte that verifies; one that has none (test_meets_BlockInv gives its invariant); and the
first and the last byte that it stored. -/
theorem test_meets_DerivedOutputs :
    ({ delivered with fvalid := 0b1000011, response := 0x2B }.frameOk = true) ∧
    ({ delivered with fvalid := 0b1000011, response := 0x2B }.verdict = true) ∧
    ({ delivered with fvalid := 0b1000011, response := 0x2B }.reading = 0x1D5) ∧
    ¬ (delivered.frameOk = true ∧ delivered.verdict = true ∧ delivered.fvalid.getLsbD 6 = true) ∧
    delivered.fvalid.getLsbD 6 = false ∧ readCell delivered.pbuf (0x0000#16).toNat = some 0x01 ∧
    readCell delivered.pbuf (0x0003#16).toNat = some 0xF9 ∧
    readCell (symEvent 0x31 (pairing 65538)).pbuf (0xFFFF#16).toNat = some 0xA1 := by decide +kernel

/-- SumLaws, ComplementLaws, VerifyLaws: operands under each hypothesis; V7's two ends of the complement. -/
theorem test_meets_laws :
    ([1, 2, 3] : List Byte).Perm [3, 1, 2] ∧ Functional.deriveChecksum (0x01#8).toNat = some 0xFE ∧
    Functional.deriveChecksum (0xFF#8).toNat = some 0x00 ∧ (0xFF < 0x100) ∧ (0x17#8 ≠ 0x16#8) ∧
    Functional.verify [1, 2, 3] 0xF9 = true := by
  refine ⟨?_, by decide, by decide, by decide, by decide, by decide⟩
  decide

end Sys2Proof.Tests
end

/-! PROOF. The registers of 10_state.md: reset, the derived outputs, the frames of the events, and what every step keeps. -/

namespace Sys2Proof.Machine

/-! What a step is made of. -/

/-- Taking the next item changes the host's list alone. -/
theorem nextInput_state (s : State) : ∃ items, (nextInput s).2 = { s with input := items } := by
  cases h : s.input with
  | nil => exact ⟨s.input, by rw [nextInput_of_nil h]⟩
  | cons item rest => exact ⟨rest, by rw [nextInput_of_cons h]⟩

/-- A predicate on states that the host's own lists do not matter to, and that reset, START, a symbol and END keep. -/
structure KeptByEvents (P : State → Prop) : Prop where
  host : ∀ (s : State) (items : List HostInput) (taken : List (BitVec 9)), P s → P { s with input := items, readings := taken }
  reset : ∀ s : State, P s → P (resetStep s)
  start : ∀ (op : Operation) (arg : BitVec 16) (s : State), P s → P (openTransaction op arg s)
  symbol : ∀ (cls : CharClass) (v : Nibble) (c : Byte) (s : State), P s → P (takeSymbol cls v c s)
  close : ∀ s : State, P s → P (endEvent s)

namespace KeptByEvents

variable {P : State → Prop} (K : KeptByEvents P)
include K

theorem of_takeSymbols (syms : List Byte) {s : State} (hs : P s) : P (takeSymbols syms s) := by
  induction syms generalizing s with
  | nil => exact hs
  | cons c rest ih => exact ih (K.symbol _ _ _ _ hs)

theorem of_transaction (op : Operation) (arg : BitVec 16) (syms : List Byte) {s : State} (hs : P s) :
    P (transaction op arg syms s) := K.close _ (K.of_takeSymbols syms (K.start op arg s hs))

/-- No instruction stops the machine (R160), and each is made of the events that keep `P`. -/
theorem exec_next (i : Instr) {s : State} (hs : P s) : ∃ t, exec i s = .next t ∧ P t := by
  cases i with
  | nop => exact ⟨s, rfl, hs⟩
  | decode arg | sumbytes arg | derivechk arg | verify arg => exact ⟨_, rfl, K.start _ arg s hs⟩
  | sym c | charOther c => exact ⟨_, rfl, K.symbol _ _ c s hs⟩
  | endTx => exact ⟨_, rfl, K.close s hs⟩
  | char0 | char1 | char2 | char3 | char4 | char5 | char6 | char7 | char8 | char9 | charA | charB | charC | charD | charE | charF
  | charLowerA | charLowerB | charLowerC | charLowerD | charLowerE | charLowerF | charLf | charCr =>
    exact ⟨_, rfl, K.symbol _ _ _ s hs⟩
  | frame bytes => exact ⟨_, rfl, K.of_transaction _ _ _ hs⟩
  | genchk bytes => exact ⟨_, rfl, K.of_transaction _ _ _ (K.of_transaction _ _ _ hs)⟩
  | decodeln text => exact ⟨_, rfl, K.of_transaction _ _ _ hs⟩
  | check text => exact ⟨_, rfl, K.host _ _ _ (K.of_transaction _ _ _ hs)⟩

/-- Every step ends in a next state (R160), and keeps `P`. -/
theorem step_next {s : State} (hs : P s) : ∃ t, step s = .next t ∧ P t := by
  obtain ⟨items, hitems⟩ := nextInput_state s
  have htaken : P (nextInput s).2 := by
    rw [hitems]
    exact K.host s items s.readings hs
  unfold step
  split
  · exact ⟨_, rfl, K.reset _ htaken⟩
  · exact K.exec_next _ htaken

theorem of_step {s t : State} (hs : P s) (h : step s = .next t) : P t := by
  obtain ⟨t', ht', hP⟩ := K.step_next hs
  rw [h] at ht'
  cases ht'
  exact hP

end KeptByEvents

/-- The reset step is taken whatever else the ports show (R160, R210). -/
theorem step_of_rst {s : State} {p : Ports} {rest : List HostInput} (hin : s.input = .edge p :: rest) (hr : p.rst = true) :
    step s = .next (resetStep { s with input := rest }) := by
  unfold step
  rw [nextInput_of_cons hin]
  exact if_pos hr

/-! The bytes of PBUF, and the symbols' frames (R42, R52). -/

/-- A symbol changes no cell but the one of the byte that comes next (R52). -/
theorem readCell_takeSymbol_other (cls : CharClass) (v : Nibble) (c : Byte) (s : State) {a : Nat}
    (h : pbufTarget s.bidx.toNat ≠ some a) : readCell (takeSymbol cls v c s).pbuf a = readCell s.pbuf a := by
  rcases takeSymbol_cases cls v c s with ⟨h', -⟩ | ⟨h', -⟩ | ⟨h', -⟩ | ⟨h', -⟩ | ⟨h', -⟩ <;> rw [h']
  case inr.inr.inr.inr => exact readCell_storeByte_other h _ _
  all_goals rfl

/-- Outside an open DECODE a symbol is at most added to `acc` (R164, R165). -/
theorem takeSymbol_outside_decode (cls : CharClass) (v : Nibble) (c : Byte) {s : State} (h : s.phase = .idle ∨ s.opQ ≠ .decode) :
    takeSymbol cls v c s = { s with acc := (takeSymbol cls v c s).acc } := by
  rcases takeSymbol_cases cls v c s with ⟨h', -⟩ | ⟨h', -⟩ | ⟨-, hp, ho, -⟩ | ⟨-, hp, ho, -⟩ | ⟨-, hp, ho, -⟩
  case inl => rw [h']
  case inr.inl => rw [h']; rfl
  all_goals simp [hp, ho] at h

/-- In IDLE and in DERIVECHK a symbol changes nothing (R164, R165). -/
theorem takeSymbol_ignored (cls : CharClass) (v : Nibble) (c : Byte) {s : State} (h : s.phase = .idle ∨ s.opQ = .deriveChk) :
    takeSymbol cls v c s = s := by
  rcases phase_or s with hp | hp
  · exact takeSymbol_idle hp cls v c
  · exact takeSymbol_derive hp (h.resolve_left (by simp [hp])) cls v c

theorem pbufByte_commitByte_other {s : State} {a : Nat} (b : Byte) (h : pbufTarget s.bidx.toNat ≠ some a) :
    (commitByte b s).pbufByte a = s.pbufByte a := by
  simp only [State.pbufByte, commitByte_pbuf, readCell_storeByte_other h]

theorem pbufByte_commitByte_same {s : State} {a : Nat} (b : Byte) (h : pbufTarget s.bidx.toNat = some a) :
    (commitByte b s).pbufByte a = b := by
  simp only [State.pbufByte, commitByte_pbuf, readCell_storeByte_same h, Option.getD_some]

/-! Valid bits, codes and the arithmetic of the derived outputs. -/

theorem validBits_zero : Functional.validBits 0 = 0 := by decide

theorem validBits_of_ge {n : Nat} (h : 19 ≤ n) : Functional.validBits n = 0b1111111#7 := by
  simp (disch := omega) only [Functional.validBits, if_pos]
  rfl

theorem fvalidAfter_of_ge {i : Nat} (h : 19 ≤ i) (v : BitVec 7) : fvalidAfter i v = v := by
  simp (disch := omega) only [fvalidAfter, if_neg]

/-- The byte that arrives makes the valid bits those of one byte more (R29, R112), also where the byte counter saturates. -/
theorem fvalidAfter_validBits (i : BitVec 17) :
    fvalidAfter i.toNat (Functional.validBits i.toNat) = Functional.validBits (nextIndex i).toNat := by
  rw [nextIndex_toNat]
  by_cases h : i.toNat < 19
  · generalize i.toNat = n at h ⊢
    interval_cases n <;> rfl
  · rw [fvalidAfter_of_ge (by omega), validBits_of_ge (by omega), validBits_of_ge (by omega)]

theorem sumBytes_append_singleton (x : List Byte) (b : Byte) : Functional.sumBytes (x ++ [b]) = Functional.sumBytes x + b := by
  apply BitVec.eq_of_toNat_eq
  simp [Functional.sumBytes]

theorem validOrZero_of_absent {w k : Nat} {fvalid : BitVec 7} (h : fvalid.getLsbD k = false) (v : BitVec w) :
    validOrZero fvalid k v = 0 := by
  simp [validOrZero, h]

theorem argByte_toNat (arg : BitVec 16) : (argByte arg).toNat = arg.toNat % 256 := by
  simp [argByte, BitVec.extractLsb'_toNat]

theorem negate9_toNat (r : Byte) : (negate9 r).toNat = (512 - r.toNat) % 512 := by
  unfold negate9
  rw [BitVec.toNat_ofNat]
  omega

theorem negate9_toInt (r : Byte) : (negate9 r).toInt = -(r.toNat : Int) := by
  have := r.isLt
  rw [BitVec.toInt_eq_toNat_cond, negate9_toNat]
  split <;> omega

theorem negate9_zero : negate9 0#8 = 0#9 := by decide

theorem hex2_zero : hex2 0#8 = 0x3030#16 := by decide

theorem opCode_eq_zero (op : Operation) : opCode op = 0 ↔ op = .decode := by
  cases op <;> decide

theorem frameOk_iff (s : State) : s.frameOk = true ↔ s.done = true ∧ s.rc = 0 ∧ s.opQ = .decode := by
  simp [State.frameOk, and_assoc]

@[simp] theorem errorCode_ne_zero (c : Cause) : errorCode c ≠ 0#2 := by
  cases c <;> decide

end Sys2Proof.Machine

namespace Sys2Proof.Safety

open Sys2Proof.Machine

/-! The register invariant. -/

/-- Before an END publishes, as in an open transaction and after reset, the invariant says three things more. -/
theorem BlockInv.of_nothingPublished {s : State} (hempty : NothingPublished s)
    (hother : s.opQ ≠ .decode → NoFrameData s) (hvalid : s.opQ = .decode → s.fvalid = Functional.validBits s.bidx.toNat)
    (hresponse : s.fvalid.getLsbD 6 = false → s.response = 0) : BlockInv s := by
  have ⟨_, _, _, _, _, hrc, hcause, hdone⟩ := hempty
  have hnot : s.done ≠ true := by simp [hdone]
  exact {
    codes := .inl ⟨hrc, hcause⟩
    doneIdle := fun h => absurd h hnot
    openEmpty := fun _ => hempty
    errorCleared := fun h => absurd hrc h
    malformedByDecode := fun h => by simp [hrc] at h
    domainByDerive := fun h => by simp [hrc] at h
    otherOperations := hother
    validBits := fun h _ => hvalid h
    frame := fun h => absurd ((frameOk_iff s).mp h).1 hnot
    responseAbsent := hresponse
    sumResult := fun _ h => absurd h hnot
    deriveResult := fun _ h => absurd h hnot
    verifyResult := fun _ h => absurd h hnot }

/-- Without an open transaction and without an error, the clauses left are those on the operations' results. -/
theorem BlockInv.of_idle {s : State} (hp : s.phase = .idle) (hrc : s.rc = 0) (hcause : s.cause = 0)
    (hother : s.opQ ≠ .decode → NoFrameData s) (hvalid : s.opQ = .decode → s.fvalid = Functional.validBits s.bidx.toNat)
    (hresponse : s.fvalid.getLsbD 6 = false → s.response = 0) (hframe : s.frameOk = true → FrameSound s)
    (hsum : s.opQ = .sumBytes → s.done = true → s.sum = s.acc ∧ s.verdict = false ∧ s.checksumCalc = 0)
    (hderive : s.opQ = .deriveChk → s.done = true →
      s.argQ.toNat ≤ 0xFF ∧ s.checksumCalc.toNat = 0xFF - s.argQ.toNat ∧ s.sum = 0 ∧ s.verdict = false)
    (hverify : s.opQ = .verify → s.done = true →
      s.sum = s.acc + s.argQ.extractLsb' 0 8 ∧ (s.verdict = true ↔ s.sum = 0xFF) ∧ s.checksumCalc = 0) : BlockInv s where
  codes := .inl ⟨hrc, hcause⟩
  doneIdle := fun _ => hp
  openEmpty := fun h => by simp [hp] at h
  errorCleared := fun h => absurd hrc h
  malformedByDecode := fun h => by simp [hrc] at h
  domainByDerive := fun h => by simp [hrc] at h
  otherOperations := hother
  validBits := fun h _ => hvalid h
  frame := hframe
  responseAbsent := hresponse
  sumResult := hsum
  deriveResult := fun h hd _ => hderive h hd
  verifyResult := hverify

/-- In a state of the invariant an open DECODE has the valid bits of the bytes taken so far. -/
theorem BlockInv.validBits_of_run {s : State} (h : BlockInv s) (hp : s.phase = .run) (ho : s.opQ = .decode) :
    s.fvalid = Functional.validBits s.bidx.toNat := by
  obtain ⟨-, -, -, -, -, hrc, -⟩ := h.openEmpty hp
  exact h.validBits ho hrc

theorem blockInv_host {s : State} (h : BlockInv s) (items : List HostInput) (taken : List (BitVec 9)) :
    BlockInv { s with input := items, readings := taken } where
  codes := h.codes
  doneIdle := h.doneIdle
  openEmpty := h.openEmpty
  errorCleared := h.errorCleared
  malformedByDecode := h.malformedByDecode
  domainByDerive := h.domainByDerive
  otherOperations := h.otherOperations
  validBits := h.validBits
  frame := fun hok =>
    have hs := h.frame hok
    ⟨hs.complete, hs.delimiter, hs.lengthMatches, hs.sums, hs.verdictRule, hs.absentFieldsZero⟩
  responseAbsent := h.responseAbsent
  sumResult := h.sumResult
  deriveResult := h.deriveResult
  verifyResult := h.verifyResult

theorem blockInv_resetStep (s : State) : BlockInv (resetStep s) :=
  BlockInv.of_nothingPublished (by simp [NothingPublished]) (by simp) (by simp [validBits_zero]) (by simp)

theorem blockInv_openTransaction (op : Operation) (arg : BitVec 16) (s : State) : BlockInv (openTransaction op arg s) :=
  BlockInv.of_nothingPublished (by simp [NothingPublished]) (by simp [NoFrameData]) (by simp [validBits_zero]) (by simp)

/-- In an open DECODE the registers `hi`, `nib`, `tseen` and `nonhex` are free. -/
theorem blockInv_pairing {s : State} (h : BlockInv s) (hp : s.phase = .run) (ho : s.opQ = .decode) (hi : Nibble)
    (nib tseen nonhex : Bool) : BlockInv { s with hi := hi, nib := nib, tseen := tseen, nonhex := nonhex } :=
  BlockInv.of_nothingPublished (h.openEmpty hp) (fun hne => absurd ho hne) (fun _ => h.validBits_of_run hp ho) h.responseAbsent

/-- A committed byte sets the valid bits of one byte more, and `response` only together with its bit (R29, R112). -/
theorem blockInv_commitByte {s : State} (b : Byte) (h : BlockInv s) (hp : s.phase = .run) (ho : s.opQ = .decode) :
    BlockInv (commitByte b s) := by
  refine BlockInv.of_nothingPublished (h.openEmpty hp) (fun hne => absurd ho hne) (fun _ => ?_) (fun habsent => ?_)
  · rw [commitByte_fvalid, h.validBits_of_run hp ho, commitByte_bidx, fvalidAfter_validBits]
  · simp only [commitByte_fvalid, fvalidAfter_response, Bool.or_eq_false_iff, decide_eq_false_iff_not] at habsent
    obtain ⟨hbefore, hindex⟩ := habsent
    rw [commitByte_response, if_neg hindex, h.responseAbsent hbefore]

theorem blockInv_addByte {s : State} (d : Byte) (h : BlockInv s) (hp : s.phase = .run) : BlockInv (addByte d s) :=
  BlockInv.of_nothingPublished (h.openEmpty hp) h.otherOperations (h.validBits_of_run hp) h.responseAbsent

theorem blockInv_takeSymbol (cls : CharClass) (v : Nibble) (c : Byte) {s : State} (h : BlockInv s) :
    BlockInv (takeSymbol cls v c s) := by
  rcases takeSymbol_cases cls v c s with
    ⟨h', -⟩ | ⟨h', hp, -⟩ | ⟨h', hp, ho, -⟩ | ⟨h', hp, ho, -⟩ | ⟨h', hp, ho, -⟩ <;> rw [h']
  · exact h
  · exact blockInv_addByte c h hp
  · exact blockInv_pairing h hp ho s.hi s.nib true s.nonhex
  · exact blockInv_pairing h hp ho v true s.tseen _
  · exact blockInv_commitByte _ (blockInv_pairing h hp ho s.hi false s.tseen _) hp ho

/-- An error publication keeps the invariant when its cause is one of the operation's own (R181 to R183, R186). -/
theorem blockInv_publishError {s : State} {c : Cause} (h : BlockInv s)
    (hown : (s.opQ = .decode ∧ c ≠ .domain) ∨ (s.opQ = .deriveChk ∧ c = .domain ∧ 0xFF < s.argQ.toNat)) :
    BlockInv (publishError c s) where
  codes := by cases c <;> simp [CodesAgree, errorCode, causeCode]
  doneIdle := fun _ => rfl
  openEmpty := by simp
  errorCleared := by simp [ResultsCleared]
  malformedByDecode := by
    rcases hown with ⟨ho, -⟩ | ⟨-, rfl, -⟩
    · exact fun _ => ho
    · simp [errorCode]
  domainByDerive := by
    rcases hown with ⟨-, hc⟩ | ⟨ho, -, harg⟩
    · cases c <;> simp [errorCode] at hc ⊢
    · exact fun _ => ⟨ho, harg⟩
  otherOperations := fun hne => by
    have hdata := h.otherOperations hne
    unfold NoFrameData at hdata ⊢
    simp [hdata]
  validBits := fun _ h0 => absurd h0 (errorCode_ne_zero c)
  frame := by simp [frameOk_iff]
  responseAbsent := fun _ => rfl
  sumResult := by rcases hown with ⟨ho, -⟩ | ⟨ho, -⟩ <;> simp [ho]
  deriveResult := fun _ _ h0 => absurd h0 (errorCode_ne_zero c)
  verifyResult := by rcases hown with ⟨ho, -⟩ | ⟨ho, -⟩ <;> simp [ho]

/-- A frame that passes the checks of R113 is delivered sound (R104, R105, R108, R114). -/
theorem frameSound_of_checks {s : State} (h : malformedCause s = none) : FrameSound (closeTransaction (publishFrame s)) := by
  obtain ⟨hnonhex, hnib, hmin, hdelim, hlength⟩ := malformedCause_none.mp h
  refine ⟨⟨hmin, hnib, hnonhex⟩, hdelim, ⟨hlength, ?_⟩, ⟨rfl, rfl, rfl⟩, verdictOf_eq_true_iff _, ?_⟩
  · apply BitVec.eq_of_toNat_eq
    simp only [closeTransaction_payloadCount, publishFrame_payloadCount, closeTransaction_length, publishFrame_length,
      BitVec.toNat_ofNat, Config.minFrameBytes, ← hlength, Nat.add_sub_cancel]
    exact Nat.mod_eq_of_lt s.length.isLt
  · exact ⟨(validOrZero_of_absent · _), (validOrZero_of_absent · _), (validOrZero_of_absent · _), (validOrZero_of_absent · _),
      (validOrZero_of_absent · _), (validOrZero_of_absent · _), (validOrZero_of_absent · _)⟩

theorem blockInv_publishFrame {s : State} (h : BlockInv s) (hp : s.phase = .run) (ho : s.opQ = .decode)
    (hm : malformedCause s = none) : BlockInv (closeTransaction (publishFrame s)) :=
  BlockInv.of_idle rfl rfl rfl (fun hne => absurd ho hne) (h.validBits_of_run hp) (validOrZero_of_absent · _)
    (fun _ => frameSound_of_checks hm) (by simp [ho]) (by simp [ho]) (by simp [ho])

theorem blockInv_endSumBytes {s : State} (h : BlockInv s) (hp : s.phase = .run) (ho : s.opQ = .sumBytes) :
    BlockInv (endSumBytes s) := by
  obtain ⟨-, hverdict, -, -, hcalc, -⟩ := h.openEmpty hp
  exact BlockInv.of_idle rfl rfl rfl h.otherOperations (h.validBits_of_run hp) h.responseAbsent
    (by simp [frameOk_iff, endSumBytes, ho]) (fun _ _ => ⟨rfl, hverdict, hcalc⟩) (by simp [endSumBytes, ho])
    (by simp [endSumBytes, ho])

theorem blockInv_endDeriveChk_inside {s : State} (h : BlockInv s) (hp : s.phase = .run) (ho : s.opQ = .deriveChk)
    (harg : s.argQ.toNat ≤ 0xFF) :
    BlockInv (closeTransaction { s with checksumCalc := complement (argByte s.argQ), rc := 0, cause := 0 }) := by
  obtain ⟨-, hverdict, hsum, -⟩ := h.openEmpty hp
  have hcalc : (complement (argByte s.argQ)).toNat = 0xFF - s.argQ.toNat := by
    rw [complement_toNat, argByte_toNat]
    omega
  exact BlockInv.of_idle rfl rfl rfl h.otherOperations (h.validBits_of_run hp) h.responseAbsent
    (by simp [frameOk_iff, ho]) (by simp [ho]) (fun _ _ => ⟨harg, hcalc, hsum, hverdict⟩) (by simp [ho])

theorem blockInv_endVerify {s : State} (h : BlockInv s) (hp : s.phase = .run) (ho : s.opQ = .verify) :
    BlockInv (endVerify s) := by
  obtain ⟨-, -, -, -, hcalc, -⟩ := h.openEmpty hp
  exact BlockInv.of_idle rfl rfl rfl h.otherOperations (h.validBits_of_run hp) h.responseAbsent
    (by simp [frameOk_iff, endVerify, ho]) (by simp [endVerify, ho]) (by simp [endVerify, ho])
    (fun _ _ => ⟨rfl, verdictOf_eq_true_iff _, hcalc⟩)

theorem blockInv_endEvent {s : State} (h : BlockInv s) : BlockInv (endEvent s) := by
  rcases endEvent_cases s with ⟨h', -⟩ | ⟨c, h', -, ho, hm⟩ | ⟨h', hp, ho, hm⟩ | ⟨h', hp, ho⟩ | ⟨h', -, ho, harg⟩ |
    ⟨h', hp, ho, harg⟩ | ⟨h', hp, ho⟩ <;> rw [h']
  · exact h
  · have hc : c ≠ .domain := fun hc => malformedCause_ne_domain s (hc ▸ hm)
    exact blockInv_publishError h (.inl ⟨ho, hc⟩)
  · exact blockInv_publishFrame h hp ho hm
  · exact blockInv_endSumBytes h hp ho
  · exact blockInv_publishError h (.inr ⟨ho, rfl, harg⟩)
  · exact blockInv_endDeriveChk_inside h hp ho harg
  · exact blockInv_endVerify h hp ho

theorem blockInv_kept : KeptByEvents BlockInv where
  host := fun _ items taken h => blockInv_host h items taken
  reset := fun s _ => blockInv_resetStep s
  start := fun op arg s _ => blockInv_openTransaction op arg s
  symbol := fun cls v c _ h => blockInv_takeSymbol cls v c h
  close := fun _ h => blockInv_endEvent h

/-- Settles O38: each kind of event keeps the register invariant, and a step is made of events. -/
theorem stepKeepsBlockInv : Obligations.StepKeepsBlockInv := fun _ _ => blockInv_kept.of_step

/-! The payload invariant. -/

theorem cells_congr {s t : State} {n : Nat} (h : ∀ a, a < n → t.pbufByte a = s.pbufByte a) : cells t n = cells s n :=
  List.map_congr_left fun a ha => h a (List.mem_range.mp ha)

theorem cells_succ (s : State) (n : Nat) : cells s (n + 1) = cells s n ++ [s.pbufByte n] := by
  simp [cells, List.range_succ]

/-- The payload invariant speaks of DECODE alone. -/
theorem PayloadInv.of_other {s : State} (ho : s.opQ ≠ .decode) : PayloadInv s where
  before := fun h => absurd h ho
  running := fun h => absurd h ho
  last := fun h => absurd h ho

theorem PayloadInv.of_start {s : State} (hacc : s.acc = 0) (hbidx : s.bidx = 0) : PayloadInv s where
  before := fun _ _ => hacc
  running := fun _ h => by simp [hbidx] at h
  last := fun _ _ h => by simp [hbidx] at h

/-- The invariant reads these registers and PBUF alone, and `checksum` only while a frame is open or delivered. -/
theorem PayloadInv.congr {s t : State} (h : PayloadInv s) (hopQ : t.opQ = s.opQ) (hacc : t.acc = s.acc) (hbidx : t.bidx = s.bidx)
    (hpbuf : t.pbuf = s.pbuf) (hchecksum : t.phase = .run ∨ t.rc = 0 → (s.phase = .run ∨ s.rc = 0) ∧ t.checksum = s.checksum) :
    PayloadInv t := by
  have hbyte : t.pbufByte = s.pbufByte := by
    funext a
    rw [State.pbufByte, State.pbufByte, hpbuf]
  exact {
    before := by rw [hopQ, hacc, hbidx]; exact h.before
    running := by rw [hopQ, hacc, hbidx, cells, hbyte]; exact h.running
    last := fun ho hopen => by
      obtain ⟨hopen', hsame⟩ := hchecksum hopen
      rw [hbyte, hbidx, hsame]
      exact h.last (hopQ ▸ ho) hopen' }

/-- The byte with frame index 3 is the first of the sum, and each later one is added to it (R52, R112). -/
theorem payloadInv_commitByte {s : State} (b : Byte) (h : PayloadInv s) : PayloadInv (commitByte b s) := by
  have hindex := nextIndex_toNat s.bidx
  refine ⟨fun ho hlt => ?_, fun ho hge hle => ?_, fun ho _ hge hle => ?_⟩
  · rw [commitByte_bidx] at hlt
    rw [commitByte_acc, if_neg (by simp only [Config.payloadStart]; omega)]
    exact h.before ho (by omega)
  · rw [commitByte_bidx] at hge hle ⊢
    by_cases hfirst : s.bidx.toNat < 3
    · have hn : (nextIndex s.bidx).toNat - 3 = 0 := by omega
      rw [commitByte_acc, if_neg (by simp only [Config.payloadStart]; omega), h.before ho hfirst, hn]
      rfl
    · have hn : (nextIndex s.bidx).toNat - 3 = (s.bidx.toNat - 3) + 1 := by omega
      have htarget : pbufTarget s.bidx.toNat = some (s.bidx.toNat - 3) := pbufTarget_some.mpr (by omega)
      have hbefore : cells (commitByte b s) (s.bidx.toNat - 3) = cells s (s.bidx.toNat - 3) :=
        cells_congr fun a ha => pbufByte_commitByte_other b (by rw [htarget, ne_eq, Option.some.injEq]; omega)
      rw [commitByte_acc, if_pos (by simp only [Config.payloadStart]; omega), hn, cells_succ, sumBytes_append_singleton, hbefore,
        pbufByte_commitByte_same b htarget, h.running ho (by omega) (by omega)]
  · rw [commitByte_bidx] at hge hle ⊢
    have hn : (nextIndex s.bidx).toNat - 4 = s.bidx.toNat - 3 := by omega
    rw [hn, pbufByte_commitByte_same b (pbufTarget_some.mpr (by omega)), commitByte_checksum]

theorem payloadInv_takeSymbol (cls : CharClass) (v : Nibble) (c : Byte) {s : State} (h : PayloadInv s) :
    PayloadInv (takeSymbol cls v c s) := by
  rcases takeSymbol_cases cls v c s with ⟨h', -⟩ | ⟨h', -, ho⟩ | ⟨h', -⟩ | ⟨h', -⟩ | ⟨h', -⟩ <;> rw [h']
  · exact h
  · exact PayloadInv.of_other (by rcases ho with ho | ho <;> simp [ho])
  · exact h.congr rfl rfl rfl rfl (⟨·, rfl⟩)
  · exact h.congr rfl rfl rfl rfl (⟨·, rfl⟩)
  · exact payloadInv_commitByte _ (h.congr rfl rfl rfl rfl (⟨·, rfl⟩))

theorem payloadInv_publishError {s : State} (c : Cause) (h : PayloadInv s) : PayloadInv (publishError c s) :=
  h.congr rfl rfl rfl rfl (by simp)

theorem payloadInv_endEvent {s : State} (h : PayloadInv s) : PayloadInv (endEvent s) := by
  by_cases ho : s.opQ = .decode
  · rcases phase_or s with hp | hp
    · rwa [endEvent_idle hp]
    · rw [endEvent_decode hp ho, endDecode]
      split
      · exact payloadInv_publishError _ h
      · exact h.congr rfl rfl rfl rfl (fun _ => ⟨.inl hp, rfl⟩)
  · exact PayloadInv.of_other (by simpa using ho)

theorem payloadInv_kept : KeptByEvents PayloadInv where
  host := fun _ _ _ h => h.congr rfl rfl rfl rfl (⟨·, rfl⟩)
  reset := fun _ _ => PayloadInv.of_start rfl rfl
  start := fun _ _ _ _ => PayloadInv.of_start rfl rfl
  symbol := fun cls v c _ h => payloadInv_takeSymbol cls v c h
  close := fun _ h => payloadInv_endEvent h

/-- Settles O39: each kind of event keeps the payload invariant, and a step is made of events. -/
theorem stepKeepsPayloadInv : Obligations.StepKeepsPayloadInv := fun _ _ => payloadInv_kept.of_step

/-- Settles O40: reset is the outcome of a reset step, and no cell is listed. -/
theorem invariantsAtReset : Obligations.InvariantsAtReset :=
  ⟨memoryWf_reset, blockInv_resetStep State.reset, PayloadInv.of_start rfl rfl⟩

/-! What the events leave alone, the reset step, and the derived outputs. -/

/-- Settles O27: a START, a SYM and an END each by its frame. -/
theorem whoWritesWhat : Obligations.WhoWritesWhat := by
  refine ⟨fun arg s t i hi h => ?_, fun c s t h => ?_, fun s t h => ?_⟩
  · have hstart : ∃ op, exec i s = .next (openTransaction op arg s) := by
      simp only [List.mem_cons, List.not_mem_nil, or_false] at hi
      rcases hi with rfl | rfl | rfl | rfl <;> exact ⟨_, rfl⟩
    obtain ⟨op, hop⟩ := hstart
    rw [hop] at h
    cases h
    simp
  · cases h
    simp only [symEvent_phase, symEvent_opQ, symEvent_argQ, symEvent_payloadCount, symEvent_verdict, symEvent_sum,
      symEvent_sumPayload, symEvent_checksumCalc, symEvent_rc, symEvent_cause, symEvent_done, symEvent_input,
      symEvent_readings, true_and]
    exact ⟨fun a ha => readCell_takeSymbol_other _ _ c s ha, takeSymbol_outside_decode _ _ c, takeSymbol_ignored _ _ c⟩
  · cases h
    simp

/-- With no transaction open an event word that is no START changes nothing (R161, R164, R166). -/
theorem exec_idle_of_not_start {w : EventWord} {s : State} (hp : s.phase = .idle) (hw : w.extractLsb' 26 2 ≠ 1#2) :
    exec (decodeEvent w) s = .next s := by
  unfold decodeEvent
  split_ifs with _ hstart
  · rfl
  · exact absurd hstart hw
  · rw [exec_sym, execSym, symEvent, takeSymbol_idle hp]
  · rw [exec_endTx, execEndTx, endEvent_idle hp]

/-- Settles O36, by induction on the event words. -/
theorem resultsStableUntilStart : Obligations.ResultsStableUntilStart := by
  intro ws s hp hws
  induction ws with
  | nil => rfl
  | cons w rest ih =>
    have hstep : exec (decodeInput (.edge (portsOfWord w))) (presenting (wordEdges rest) s) =
        .next (presenting (wordEdges rest) s) := by
      rw [decodeInput, portsWord_portsOfWord]
      exact exec_idle_of_not_start hp (hws w List.mem_cons_self)
    calc run (w :: rest).length (presenting (wordEdges (w :: rest)) s)
        = run rest.length (presenting (wordEdges rest) s) := by
          simpa [wordEdges] using run_presenting_cons rfl (wordEdges rest) s _ hstep
      _ = .next s := ih fun w' hw' => hws w' (List.mem_cons_of_mem w hw')

/-- Settles O12: the reset step, register by register, and what the derived outputs make of zero. -/
theorem resetRegisters : Obligations.ResetRegisters := by
  intro s p rest hin hr
  refine ⟨_, step_of_rst hin hr, ?_⟩
  simp [ResultsCleared, State.pbufByte, State.busy, State.frameOk, State.signalStrength, State.reading, State.sumHex,
    State.checksumCalcHex, negate9_zero, hex2_zero]

/-- Settles O42: each output by its definition, and `signal_strength` by the arithmetic of R35. -/
theorem derivedOutputs : Obligations.DerivedOutputs := by
  intro s
  refine ⟨decide_eq_true_iff, ?_, negate9_toInt _, negate9_toNat _, fun hinv habsent => ?_, fun hok hv hf => ?_, fun hnot => ?_,
    rfl, rfl, fun a => ⟨rfl, fun b hb => ?_⟩, by simp [State.outputs], by simp [State.outputs], by simp [State.outputs]⟩
  · rw [frameOk_iff, opCode_eq_zero]
  · have hzero := hinv.responseAbsent habsent
    exact ⟨hzero, by rw [State.signalStrength, hzero]; exact negate9_zero⟩
  · simp [State.reading, hok, hv, hf]
  · exact if_neg (by simpa [and_assoc] using hnot)
  · rw [State.pbData, State.pbufByte, hb, Option.getD_some]

end Sys2Proof.Safety

/-! PROOF. PBUF, after 20_memory.md: its canonical form, what writes a cell, and a delivered frame's payload in it. -/

namespace Sys2Proof.Machine

/-- Every operation code of a START opens a transaction (R81, R162). -/
theorem exec_decodeStart (code : BitVec 2) (arg : BitVec 16) (s : State) :
    ∃ op, exec (decodeStart code arg) s = .next (openTransaction op arg s) := by
  unfold decodeStart
  split_ifs <;> exact ⟨_, rfl⟩

/-- What an event word can do to PBUF (R52): it leaves PBUF as it was, or it is a SYM. -/
theorem exec_event_pbuf {w : EventWord} {s t : State} (h : exec (decodeEvent w) s = .next t) :
    t.pbuf = s.pbuf ∨ ∃ c, decodeEvent w = .sym c ∧ t = symEvent c s := by
  unfold decodeEvent at h ⊢
  split_ifs at h ⊢
  · cases h
    exact .inl rfl
  · obtain ⟨op, hop⟩ := exec_decodeStart (w.extractLsb' 24 2) (w.extractLsb' 8 16) s
    rw [hop] at h
    cases h
    exact .inl rfl
  · cases h
    exact .inr ⟨_, rfl, rfl⟩
  · cases h
    exact .inl (endEvent_pbuf s)

/-- A symbol that changes a cell is the low digit of a byte of DECODE, whose own cell it is (R52, R111, R112). -/
theorem takeSymbol_commits {cls : CharClass} {v : Nibble} {c : Byte} {s : State} {a : Nat}
    (h : readCell (takeSymbol cls v c s).pbuf a ≠ readCell s.pbuf a) :
    s.phase = .run ∧ s.opQ = .decode ∧ s.nib = true ∧ cls ≠ .term ∧ pbufTarget s.bidx.toNat = some a ∧
      readCell (takeSymbol cls v c s).pbuf a = some (assembleByte s.hi v) := by
  have htarget : pbufTarget s.bidx.toNat = some a := not_not.mp fun hne => h (readCell_takeSymbol_other cls v c s hne)
  rcases takeSymbol_cases cls v c s with ⟨h', -⟩ | ⟨h', -⟩ | ⟨h', -⟩ | ⟨h', -⟩ | ⟨h', hp, ho, hcls, hnib⟩ <;> rw [h'] at h ⊢
  case inr.inr.inr.inr => exact ⟨hp, ho, hnib, hcls, htarget, readCell_storeByte_same htarget _ _⟩
  all_goals exact absurd rfl h

theorem memoryWf_kept : KeptByEvents fun s => memoryWf s.pbuf = true where
  host := fun _ _ _ h => h
  reset := fun _ h => h
  start := fun _ _ _ h => h
  symbol := memoryWf_takeSymbol
  close := fun s h => by rwa [endEvent_pbuf]

end Sys2Proof.Machine

namespace Sys2Proof.Safety

open Sys2Proof.Machine

/-- Settles O37: each kind of event keeps the canonical form, and a step is made of events. -/
theorem stepKeepsMemoryForm : Obligations.StepKeepsMemoryForm := fun _ _ => memoryWf_kept.of_step

/-- Settles O28: only a SYM writes PBUF, and only by committing the byte of `bidx`. -/
theorem onlyCommitsWritePbuf : Obligations.OnlyCommitsWritePbuf := by
  intro w s t a h hne
  rcases exec_event_pbuf h with hpbuf | ⟨c, hsym, rfl⟩
  · exact absurd (by rw [hpbuf]) hne
  · obtain ⟨hp, ho, hnib, hcls, htarget, hread⟩ := takeSymbol_commits hne
    obtain ⟨-, hle, hindex⟩ := pbufTarget_some.mp htarget
    have hbyte : assembleByte s.hi (nibble c) = BitVec.ofNat 8 (16 * s.hi.toNat + (nibble c).toNat) := by
      rw [← assembleByte_toNat, BitVec.ofNat_toNat, BitVec.setWidth_eq]
    exact ⟨c, hsym, hp, ho, hnib, hcls, hindex.symm, by omega, hbyte ▸ hread⟩

/-- With a delivered frame the cells hold the payload and then `checksum`, and `acc` is their sum (R27, R52, R54). -/
theorem cells_of_delivered {s : State} (hframe : FrameSound s) (hinv : PayloadInv s) (ho : s.opQ = .decode) (hrc : s.rc = 0) :
    s.pbufByte s.payloadCount.toNat = s.checksum ∧ s.acc = Functional.sumBytes s.payloadBytes + s.checksum := by
  obtain ⟨hlength, hcount⟩ := hframe.lengthMatches
  have hlt := s.length.isLt
  have hpayload : s.bidx.toNat - 4 = s.payloadCount.toNat := by rw [hcount]; omega
  have hall : s.bidx.toNat - 3 = s.payloadCount.toNat + 1 := by rw [hcount]; omega
  have hlast : s.pbufByte s.payloadCount.toNat = s.checksum := by
    rw [← hpayload]
    exact hinv.last ho (.inr hrc) (by omega) (by omega)
  refine ⟨hlast, ?_⟩
  calc s.acc = Functional.sumBytes (cells s (s.payloadCount.toNat + 1)) := by
        rw [← hall]
        exact hinv.running ho (by omega) (by omega)
    _ = Functional.sumBytes s.payloadBytes + s.checksum := by
        rw [cells_succ, sumBytes_append_singleton, hlast]
        rfl

/-- Settles O41: the sum over the delivered cells, split into the payload and the checksum after it. -/
theorem deliveredFrameChecksum : Obligations.DeliveredFrameChecksum := by
  intro s hblock hinv hok
  obtain ⟨-, hrc, ho⟩ := (frameOk_iff s).mp hok
  have hframe := hblock.frame hok
  obtain ⟨hlast, hacc⟩ := cells_of_delivered hframe hinv ho hrc
  obtain ⟨hsum, hsumPayload, hcalc⟩ := hframe.sums
  have hpayload : Functional.sumBytes s.payloadBytes = s.sumPayload := by rw [hsumPayload, hacc, BitVec.add_sub_cancel]
  have hverdict : s.verdict = true ↔ s.sumPayload + s.checksum = 0xFF := by rw [hframe.verdictRule, hsum, hacc, hpayload]
  refine ⟨?_, hpayload, ?_, ?_, hlast⟩
  · rw [State.payloadBytes, List.length_map, List.length_range, hframe.lengthMatches.2]
  · rw [Bool.eq_iff_iff, hverdict, Functional.verify, decide_eq_true_iff, sumBytes_append_singleton, hpayload]
    exact Iff.rfl
  · rw [hverdict, hcalc, BitVec.sub_eq_iff_eq_add, BitVec.add_comm, eq_comm]

end Sys2Proof.Safety

/-! PROOF. The encoding of 30_encoding.md: the event word and its fields, the CHAR rows, digits and tokens; decode of encode. -/

namespace Sys2Proof

open Machine

/-! The event word (R83). -/

@[simp] theorem portsWord_ev (p : Ports) : (portsWord p).extractLsb' 26 2 = p.ev := by
  rw [portsWord, BitVec.extractLsb'_append_eq_of_le (by omega), BitVec.extractLsb'_append_eq_of_le (by omega)]
  exact BitVec.extractLsb'_append_eq_left

@[simp] theorem portsWord_op (p : Ports) : (portsWord p).extractLsb' 24 2 = p.op := by
  rw [portsWord, BitVec.extractLsb'_append_eq_of_le (by omega), BitVec.extractLsb'_append_eq_of_le (by omega)]
  exact BitVec.extractLsb'_append_eq_right

@[simp] theorem portsWord_arg (p : Ports) : (portsWord p).extractLsb' 8 16 = p.arg := by
  rw [portsWord, BitVec.extractLsb'_append_eq_of_le (by omega)]
  exact BitVec.extractLsb'_append_eq_right

@[simp] theorem portsWord_sym (p : Ports) : (portsWord p).extractLsb' 0 8 = p.sym :=
  BitVec.extractLsb'_append_eq_right

theorem append_toNat {m n : Nat} (x : BitVec m) (y : BitVec n) : (x ++ y).toNat = x.toNat * 2 ^ n + y.toNat := by
  rw [BitVec.toNat_append, ← Nat.shiftLeft_add_eq_or_of_lt y.isLt, Nat.shiftLeft_eq]

theorem portsWord_toNat (p : Ports) :
    (portsWord p).toNat = p.ev.toNat * 0x4000000 + p.op.toNat * 0x1000000 + p.arg.toNat * 0x100 + p.sym.toNat := by
  simp only [portsWord, append_toNat]
  omega

/-- The word of a START is the word of the ports `ev = 1`, `op`, `arg` and a zero symbol. -/
theorem startWord_eq_portsWord (op : Operation) (arg : BitVec 16) :
    startWord op arg = portsWord { rst := false, ev := 1, op := opCode op, arg := arg, sym := 0 } := rfl

theorem symWord_eq_portsWord (c : Byte) : symWord c = portsWord { rst := false, ev := 2, op := 0, arg := 0, sym := c } := rfl

theorem startWord_eq_ofNat (op : Operation) (arg : BitVec 16) :
    startWord op arg = BitVec.ofNat 28 (0x4000000 + (opCode op).toNat * 0x1000000 + arg.toNat * 0x100) := by
  apply BitVec.eq_of_toNat_eq
  have hop := (opCode op).isLt
  have harg := arg.isLt
  rw [startWord_eq_portsWord, portsWord_toNat, BitVec.toNat_ofNat]
  simp only [BitVec.reduceToNat]
  omega

theorem symWord_eq_ofNat (c : Byte) : symWord c = BitVec.ofNat 28 (0x8000000 + c.toNat) := by
  apply BitVec.eq_of_toNat_eq
  have hc := c.isLt
  rw [symWord_eq_portsWord, portsWord_toNat, BitVec.toNat_ofNat]
  simp only [BitVec.reduceToNat]
  omega

/-! Decoding an event word. -/

/-- The decoder reads `ev`, then `op` and `arg` at a START, or `sym` at a SYM (R80, R81). -/
theorem decodeEvent_portsWord (p : Ports) :
    decodeEvent (portsWord p) =
      if p.ev = 0 then .nop else if p.ev = 1 then decodeStart p.op p.arg else if p.ev = 2 then .sym p.sym else .endTx := by
  simp only [decodeEvent, portsWord_ev, portsWord_op, portsWord_arg, portsWord_sym]

/-- The instruction of a START of an operation. -/
def startInstr : Operation → BitVec 16 → Instr
  | .decode => .decode
  | .sumBytes => .sumbytes
  | .deriveChk => .derivechk
  | .verify => .verify

theorem decodeStart_opCode (op : Operation) (arg : BitVec 16) : decodeStart (opCode op) arg = startInstr op arg := by
  cases op <;> rfl

@[simp] theorem decodeEvent_nopWord : decodeEvent nopWord = .nop := rfl

@[simp] theorem decodeEvent_endWord : decodeEvent endWord = .endTx := rfl

@[simp] theorem decodeEvent_startWord (op : Operation) (arg : BitVec 16) :
    decodeEvent (startWord op arg) = startInstr op arg := by
  rw [startWord_eq_portsWord, decodeEvent_portsWord, ← decodeStart_opCode]
  rfl

@[simp] theorem decodeEvent_symWord (c : Byte) : decodeEvent (symWord c) = .sym c := by
  rw [symWord_eq_portsWord, decodeEvent_portsWord]
  rfl

@[simp] theorem decodeInput_edge_portsOfWord (w : EventWord) : decodeInput (.edge (portsOfWord w)) = decodeEvent w := by
  rw [decodeInput, Safety.portsWord_portsOfWord]

/-- The opcode table's number of an event word is decoded as the word. -/
theorem decodeTableWord_event (w : EventWord) : decodeTableWord 32 w.toNat = some (decodeEvent w) := by
  have h : tableItem 32 w.toNat = .ok (.edge (portsOfWord w)) := by
    rw [tableItem, if_pos (.inl rfl), if_pos w.isLt, BitVec.ofNat_toNat, BitVec.setWidth_eq]
  rw [decodeTableWord, h, ← decodeInput_edge_portsOfWord]

/-! The CHAR rows (R74, R75). -/

/-- What the opcode table says of a CHAR row with a code of its own: the row is well formed, has the code, is no CHAR_OTHER by its
class, and runs as the symbol with the class and the digit value of the code. -/
def RowOfSymbol (c : Byte) (i : Instr) : Prop :=
  i.WellFormed = true ∧ encode i = .char c ∧ classify c ≠ .other ∧ ∀ s, exec i s = .next (symEvent c s)

theorem rowOfSymbol_of_charRows : ∀ row ∈ charRows, RowOfSymbol row.1 row.2 := by
  intro row hrow
  fin_cases hrow <;> exact ⟨rfl, rfl, by decide, fun _ => rfl⟩

/-- A symbol without a row of its own is of class OTHER. -/
theorem classify_of_lookup_none {c : Byte} (h : charRows.lookup c = none) : classify c = .other := by
  have hkeys := List.lookup_eq_none_iff.mp h
  simp only [charRows, List.cons_append, List.nil_append, List.forall_mem_cons, bne_iff_ne, ne_eq, ← BitVec.toNat_inj,
    BitVec.reduceToNat, BitVec.ofNat_eq_ofNat] at hkeys
  rw [classify, if_neg (by omega), if_neg (by omega), if_neg (by omega), if_neg (by omega)]

theorem mem_of_lookup {c : Byte} {i : Instr} (h : charRows.lookup c = some i) : (c, i) ∈ charRows := by
  obtain ⟨before, after, hsplit, -⟩ := List.lookup_eq_some_iff.mp h
  rw [hsplit]
  exact List.mem_append_right _ List.mem_cons_self

/-- The CHAR row of a symbol is its row of the table, or CHAR_OTHER for a symbol of class OTHER. -/
theorem decodeChar_cases (c : Byte) :
    RowOfSymbol c (decodeChar c) ∨ (decodeChar c = .charOther c ∧ classify c = .other) := by
  unfold decodeChar
  cases h : charRows.lookup c with
  | some i => exact .inl (rowOfSymbol_of_charRows _ (mem_of_lookup h))
  | none => exact .inr ⟨rfl, classify_of_lookup_none h⟩

theorem decodeChar_of_other {c : Byte} (h : classify c = .other) : decodeChar c = .charOther c := by
  rcases decodeChar_cases c with ⟨-, -, hc, -⟩ | ⟨hrow, -⟩
  · exact absurd h hc
  · exact hrow

/-- CHAR_OTHER is a symbol of class OTHER, whose digit value is 0 (R75). -/
theorem exec_charOther_of_other {c : Byte} (h : classify c = .other) (s : State) :
    exec (.charOther c) s = .next (symEvent c s) := by
  rw [exec_charOther, execCharOther, symEvent, h, nibble_of_not_hex c (by rw [h]; decide)]

/-- Settles O5: by the row of the symbol, or CHAR_OTHER. -/
theorem characterRowIsItsSymbol : Obligations.CharacterRowIsItsSymbol := by
  intro c s
  rw [exec_sym, execSym]
  rcases decodeChar_cases c with ⟨hw, he, -, hx⟩ | ⟨hrow, hc⟩
  · exact ⟨hw, he, hx s⟩
  · rw [hrow]
    exact ⟨decide_eq_true hc, rfl, exec_charOther_of_other hc s⟩

/-! Decode of encode. -/

/-- An instruction that is an event is well formed (R84). -/
theorem wellFormed_of_encode_edge {i : Instr} {p : Ports} (h : encode i = .edge p) : i.WellFormed = true := by
  cases i with
  | frame bytes | charOther c => cases h
  | _ => rfl

theorem decodeInput_encode {i : Instr} (h : i.WellFormed = true) : decodeInput (encode i) = i := by
  cases i with
  | charOther c => exact decodeChar_of_other (of_decide_eq_true h)
  | nop | decode arg | sumbytes arg | derivechk arg | verify arg | sym c | endTx => simp [encode, startInstr]
  | _ => rfl

theorem isReset_encode (i : Instr) : isReset (encode i) = false := by cases i <;> rfl

/-- Settles O2: by the instruction's format; the word of an event is read as the item that it is encoded as. -/
theorem decodeEncodeAgree : Obligations.DecodeEncodeAgree := by
  refine ⟨fun i hi => ⟨decodeInput_encode hi, isReset_encode i⟩, fun i w he _ => ?_⟩
  rw [decodeTableWord_event, ← decodeInput_edge_portsOfWord, ← he, decodeInput_encode (wellFormed_of_encode_edge he)]

/-- Settles O3: the decoder evaluated at each of the words. -/
theorem writtenOutWordsDecode : Obligations.WrittenOutWordsDecode := by
  unfold Obligations.WrittenOutWordsDecode
  decide

/-! The masks of R83. -/

theorem ev_and_evMask (w : EventWord) : (w &&& 0xC000000#28).extractLsb' 26 2 = w.extractLsb' 26 2 := by
  rw [BitVec.extractLsb'_and]
  exact BitVec.and_allOnes

theorem ev_and_opMask (w : EventWord) : (w &&& 0xF000000#28).extractLsb' 26 2 = w.extractLsb' 26 2 := by
  rw [BitVec.extractLsb'_and]
  exact BitVec.and_allOnes

theorem op_and_opMask (w : EventWord) : (w &&& 0xF000000#28).extractLsb' 24 2 = w.extractLsb' 24 2 := by
  rw [BitVec.extractLsb'_and]
  exact BitVec.and_allOnes

/-- The mask `0xF000000` selects the operation of a START. -/
theorem decodeEvent_of_opMask {w : EventWord} {op : Operation} (h : w &&& 0xF000000#28 = startWord op 0) :
    decodeEvent w = startInstr op (w.extractLsb' 8 16) := by
  have hev : w.extractLsb' 26 2 = 1 := by rw [← ev_and_opMask, h, startWord_eq_portsWord, portsWord_ev]
  have hop : w.extractLsb' 24 2 = opCode op := by rw [← op_and_opMask, h, startWord_eq_portsWord, portsWord_op]
  rw [decodeEvent, hev, hop, ← decodeStart_opCode]
  rfl

/-- Settles O1: the fields of a word of four parts, its number, and the fields under the masks. -/
theorem eventWordFormat : Obligations.EventWordFormat := by
  refine ⟨fun p => ?_, fun w => ⟨rfl, rfl, rfl, rfl⟩, rfl, rfl, rfl, fun arg => ?_, fun k => ?_, fun c => ?_, rfl, fun w =>
    ⟨fun h => ?_, decodeEvent_of_opMask (op := .decode), decodeEvent_of_opMask (op := .sumBytes),
      decodeEvent_of_opMask (op := .deriveChk), decodeEvent_of_opMask (op := .verify), fun h => ?_, fun h => ?_⟩⟩
  · simp only [portsOfWord, portsWord_ev, portsWord_op, portsWord_arg, portsWord_sym]
  · rw [eventWords, startWord_eq_ofNat]
    rfl
  · rw [eventWords, startWord_eq_ofNat, BitVec.toNat_setWidth_of_le (by omega)]
    rfl
  · rw [eventWords, symWord_eq_ofNat]
  · rw [decodeEvent, ← ev_and_evMask, h]
    rfl
  · rw [decodeEvent, ← ev_and_evMask, h]
    rfl
  · rw [decodeEvent, ← ev_and_evMask, h]
    rfl

/-! Characters, digits and tokens. -/

theorem classify_hex_iff (c : Byte) : classify c = .hex ↔
    (0x30 ≤ c.toNat ∧ c.toNat ≤ 0x39) ∨ (0x41 ≤ c.toNat ∧ c.toNat ≤ 0x46) ∨
      (0x61 ≤ c.toNat ∧ c.toNat ≤ 0x66) := by
  unfold classify
  split_ifs <;> simp <;> omega

theorem classify_term_iff (c : Byte) : classify c = .term ↔ c = 0x0A#8 ∨ c = 0x0D#8 := by
  rw [← BitVec.toNat_inj, ← BitVec.toNat_inj]
  unfold classify
  split_ifs <;> simp <;> omega

/-- The digit value is the distance from the first code of the character's range, and from ten in the letters (R75). -/
theorem nibble_toNat_of_range (c : Byte) :
    (0x30 ≤ c.toNat → c.toNat ≤ 0x39 → (nibble c).toNat = c.toNat - 0x30) ∧
    (0x41 ≤ c.toNat → c.toNat ≤ 0x46 → (nibble c).toNat = c.toNat - 0x37) ∧
    (0x61 ≤ c.toNat → c.toNat ≤ 0x66 → (nibble c).toNat = c.toNat - 0x57) := by
  unfold nibble
  split_ifs <;> refine ⟨fun _ _ => ?_, fun _ _ => ?_, fun _ _ => ?_⟩ <;> simp <;> omega

/-- Settles O4: each character by its range, and the classes counted out. -/
theorem characterClassesAndDigits : Obligations.CharacterClassesAndDigits := by
  refine ⟨fun c => ?_, ?_, ?_, ?_⟩
  · obtain ⟨hdigit, hupper, hlower⟩ := nibble_toNat_of_range c
    exact ⟨classify_hex_iff c, classify_term_iff c, hdigit, hupper, hlower, nibble_of_not_hex c⟩
  · decide +kernel
  · decide +kernel
  · decide +kernel

theorem assembleByte_high (h l : Nibble) : (assembleByte h l).extractLsb' 4 4 = h := BitVec.extractLsb'_append_eq_left

theorem assembleByte_low (h l : Nibble) : (assembleByte h l).extractLsb' 0 4 = l := BitVec.extractLsb'_append_eq_right

theorem assembleByte_halves (v : Byte) : assembleByte (v.extractLsb' 4 4) (v.extractLsb' 0 4) = v := by
  apply BitVec.eq_of_toNat_eq
  rw [assembleByte_toNat]
  simp only [BitVec.extractLsb'_toNat, Nat.shiftRight_eq_div_pow]
  omega

/-- The digit table of R78. -/
theorem digit_eq_getD : ∀ d : Nibble, digit d =
    ([0x30, 0x31, 0x32, 0x33, 0x34, 0x35, 0x36, 0x37, 0x38, 0x39, 0x41, 0x42, 0x43, 0x44, 0x45, 0x46] : List Byte).getD
      d.toNat 0 := by
  decide

/-- A HEX character's digit, rendered, is the character in upper case (R75, R78). -/
theorem digit_nibble {c : Byte} (h : classify c = .hex) :
    digit (nibble c) = if 0x61 ≤ c.toNat then c - 0x20 else c := by
  obtain ⟨hdigit, hupper, hlower⟩ := nibble_toNat_of_range c
  apply BitVec.eq_of_toNat_eq
  unfold digit
  rcases (classify_hex_iff c).mp h with ⟨hmin, hmax⟩ | ⟨hmin, hmax⟩ | ⟨hmin, hmax⟩
  · rw [hdigit hmin hmax, if_pos (by omega), if_neg (by omega), BitVec.toNat_ofNat]
    omega
  · rw [hupper hmin hmax, if_neg (by omega), if_neg (by omega), BitVec.toNat_ofNat]
    omega
  · rw [hlower hmin hmax, if_neg (by omega), if_pos (by omega), BitVec.toNat_ofNat, BitVec.toNat_sub]
    simp only [BitVec.reduceToNat]
    omega

/-- Settles O6: the digit table at the two halves of the byte. -/
theorem hexRendering : Obligations.HexRendering := by
  intro v
  have hhigh : (v.extractLsb' 4 4).toNat = v.toNat / 16 := by
    rw [BitVec.extractLsb'_toNat, Nat.shiftRight_eq_div_pow]
    omega
  have hlow : (v.extractLsb' 0 4).toNat = v.toNat % 16 := BitVec.extractLsb'_toNat ..
  refine ⟨?_, BitVec.extractLsb'_append_eq_left, BitVec.extractLsb'_append_eq_right⟩
  rw [hexText, digit_eq_getD, digit_eq_getD, hhigh, hlow]

/-- Settles O7: a token's two digits are the halves of its value. -/
theorem tokenValues : Obligations.TokenValues := by
  refine ⟨fun v => ?_, fun c0 c1 h0 h1 => ⟨assembleByte_toNat _ _, ?_⟩⟩
  · simp [tokenValue, hexText, nibble_digit, assembleByte_halves]
  · simp [tokenValue, hexText, assembleByte_high, assembleByte_low, digit_nibble, h0, h1]

/-! Inputs that an event does not read (R80, R84). -/

theorem step_presenting_rst {p : Ports} (h : p.rst = true) (items : List HostInput) (s : State) :
    step (Safety.presenting (.edge p :: items) s) = .next (resetStep (Safety.presenting items s)) := step_of_rst rfl h

theorem step_presenting_edge {p : Ports} (h : p.rst = false) (items : List HostInput) (s : State) :
    step (Safety.presenting (.edge p :: items) s) = exec (decodeEvent (portsWord p)) (Safety.presenting items s) :=
  Safety.step_presenting (item := .edge p) h items s

/-- Settles O13: a reset reads no event, and the decoder reads of an event what the hypotheses name. -/
theorem unreadInputsAreIgnored : Obligations.UnreadInputsAreIgnored := by
  intro p q s hrst hread
  cases hr : p.rst with
  | true => rw [step_presenting_rst hr, step_presenting_rst (hrst ▸ hr)]
  | false =>
    obtain ⟨hev, hstart, hsym⟩ := hread hr
    have hevent : decodeEvent (portsWord p) = decodeEvent (portsWord q) := by
      rw [decodeEvent_portsWord, decodeEvent_portsWord, ← hev]
      split_ifs with h0 h1 h2
      · rfl
      · rw [(hstart h1).1, (hstart h1).2]
      · rw [hsym h2]
      · rfl
    rw [step_presenting_edge hr, step_presenting_edge (hrst ▸ hr), hevent]

end Sys2Proof

/-! PROOF. A byte of the text of DECODE: its commit, register by register (R112), and the CHAR rows that complete it. -/

namespace Sys2Proof.Machine

/-! The commit (R112). -/

/-- A byte that is placed in a field replaces the field's byte of its own frame index, and no other (R55, R112). -/
theorem placeByte_byte {w lo hi : Nat} (i : Nat) {k : Nat} (hk : lo + k ≤ hi) (hw : 8 * k + 8 ≤ w) (v : BitVec w) (b : Byte) :
    (placeByte lo hi i v b).extractLsb' (8 * k) 8 = if i = hi - k then b else v.extractLsb' (8 * k) 8 := by
  by_cases hin : lo ≤ i ∧ i ≤ hi
  · rw [placeByte_inside hin]
    split_ifs with hi'
    · rw [show hi - i = k by omega, setByte_byte_same _ _ _ hw]
    · exact setByte_byte_other _ _ _ _ (by omega) hw
  · rw [placeByte_outside (by omega), if_neg (by omega)]

/-- The byte of frame index `i` sets the valid bit of the field that it completes (R29, R112). -/
theorem fvalidAfter_getLsbD (i : Nat) (v : BitVec 7) {j : Nat} (hj : j < 7) :
    (fvalidAfter i v).getLsbD j = (v.getLsbD j || decide (i = [3, 4, 12, 14, 16, 17, 18].getD j 0)) := by
  unfold fvalidAfter
  interval_cases j <;> split_ifs <;> simp_all

/-- The commit of a byte, said register by register and byte by byte. -/
theorem committed_commitByte (b : Byte) (s : State) : Safety.Committed b s (commitByte b s) where
  checksum := rfl
  startDelimiter := rfl
  lengthHigh := placeByte_byte (lo := 1) (hi := 2) (k := 1) _ (by omega) (by omega) _ _
  lengthLow := placeByte_byte (lo := 1) (hi := 2) (k := 0) _ (by omega) (by omega) _ _
  frameType := rfl
  frameId := rfl
  address64 := fun k hk => placeByte_byte _ (by omega) (by omega) _ _
  address16 := fun k hk => placeByte_byte _ (by omega) (by omega) _ _
  atCommand := fun k hk => placeByte_byte _ (by omega) (by omega) _ _
  status := rfl
  response := rfl
  fvalid := fun j hj => fvalidAfter_getLsbD _ _ hj
  acc := by
    rw [commitByte_acc, Config.payloadStart]
    split_ifs
    · exact BitVec.toNat_add _ _
    · rfl
  bidx := nextIndex_toNat _
  stored := fun h3 hmax => readCell_storeByte_same (pbufTarget_some.mpr (by omega)) _ _
  otherCells := fun _ ha => readCell_storeByte_other ha _ _
  unchanged := by simp

theorem assembleByte_eq_ofNat (h l : Nibble) : assembleByte h l = BitVec.ofNat 8 (16 * h.toNat + l.toNat) := by
  rw [← assembleByte_toNat, BitVec.ofNat_toNat, BitVec.setWidth_eq]

/-! A character that is no terminator, in DECODE (R110, R111). -/

theorem takeSymbol_high {cls : CharClass} {s : State} (hp : s.phase = .run) (ho : s.opQ = .decode) (hcls : cls ≠ .term)
    (hn : s.nib = false) (v : Nibble) (c : Byte) :
    takeSymbol cls v c s = { s with nonhex := nonhexAfter cls s.tseen s.nonhex, hi := v, nib := true } := by
  rw [takeSymbol_decode hp ho, takeCharacter_digit hcls]
  exact takeDigit_high (by exact hn) v

theorem takeSymbol_low {cls : CharClass} {s : State} (hp : s.phase = .run) (ho : s.opQ = .decode) (hcls : cls ≠ .term)
    (hn : s.nib = true) (v : Nibble) (c : Byte) :
    takeSymbol cls v c s =
      commitByte (assembleByte s.hi v) { s with nonhex := nonhexAfter cls s.tseen s.nonhex, nib := false } := by
  rw [takeSymbol_decode hp ho, takeCharacter_digit hcls]
  exact takeDigit_low (by exact hn) v

theorem takeSymbol_term {s : State} (hp : s.phase = .run) (ho : s.opQ = .decode) (v : Nibble) (c : Byte) :
    takeSymbol .term v c s = { s with tseen := true } := by
  rw [takeSymbol_decode hp ho, takeCharacter_term]

/-- The low digit commits the byte of the held digit and its own. -/
theorem takeSymbol_low_committed {cls : CharClass} {s : State} (hp : s.phase = .run) (ho : s.opQ = .decode) (hcls : cls ≠ .term)
    (hn : s.nib = true) (v : Nibble) (c : Byte) :
    Safety.Committed (BitVec.ofNat 8 (16 * s.hi.toNat + v.toNat))
      { s with nonhex := nonhexAfter cls s.tseen s.nonhex, nib := false } (takeSymbol cls v c s) := by
  rw [takeSymbol_low hp ho hcls hn, assembleByte_eq_ofNat]
  exact committed_commitByte _ _

theorem nonhexAfter_hex (tseen nonhex : Bool) : nonhexAfter .hex tseen nonhex = (nonhex || tseen) := by simp [nonhexAfter]

theorem nonhexAfter_other (tseen nonhex : Bool) : nonhexAfter .other tseen nonhex = true := by simp [nonhexAfter]

end Sys2Proof.Machine

namespace Sys2Proof.Safety

open Machine

/-- A digit row runs as its symbol, with class HEX and the row's digit value (R75). -/
theorem exec_digitRow : ∀ row ∈ digitRows, ∀ s, exec row.1 s = .next (takeSymbol .hex row.2.2 row.2.1 s) := by
  intro row hrow
  fin_cases hrow <;> exact fun _ => rfl

/-- Settles O18: a digit row is a symbol of class HEX, held high or completing a byte. -/
theorem digitRowsInDecode : Obligations.DigitRowsInDecode := by
  intro row hrow s hp ho
  rw [exec_digitRow row hrow s]
  refine ⟨fun hn => ?_, fun hn => ⟨_, rfl, ?_⟩⟩
  · rw [takeSymbol_high hp ho (by decide) hn, nonhexAfter_hex]
  · rw [← nonhexAfter_hex]
    exact takeSymbol_low_committed hp ho (by decide) hn _ _

/-- Settles O19: a terminator row sets `tseen`; CHAR_OTHER is a symbol of class OTHER and digit value 0. -/
theorem terminatorAndOtherRowsInDecode : Obligations.TerminatorAndOtherRowsInDecode := by
  intro c s hp ho
  rw [exec_charLf, execCharLf, exec_charCr, execCharCr, exec_charOther, execCharOther, takeSymbol_term hp ho,
    takeSymbol_term hp ho]
  refine ⟨rfl, rfl, fun hn => ?_, fun hn => ⟨_, rfl, ?_⟩⟩
  · rw [takeSymbol_high hp ho (by decide) hn, nonhexAfter_other]
  · rw [← nonhexAfter_other s.tseen s.nonhex]
    exact takeSymbol_low_committed hp ho (by decide) hn 0 c

end Sys2Proof.Safety

/-! PROOF. SUMBYTES and DERIVECHK as whole transactions, and GENCHK, which is one after the other (R88, R135, R136, R141). -/

namespace Sys2Proof.Machine

@[simp] theorem sumBytes_nil : Functional.sumBytes [] = 0#8 := rfl

theorem sumBytes_cons (b : Byte) (x : List Byte) : Functional.sumBytes (b :: x) = b + Functional.sumBytes x := by
  apply BitVec.eq_of_toNat_eq
  simp [Functional.sumBytes]

theorem foldl_add_eq_sumBytes (x : List Byte) (a : Byte) : x.foldl (· + ·) a = a + Functional.sumBytes x := by
  induction x generalizing a with
  | nil => exact (BitVec.add_zero a).symm
  | cons b rest ih => rw [List.foldl_cons, ih, sumBytes_cons, BitVec.add_assoc]

/-- The symbols of SUMBYTES and VERIFY are added to `acc` (R135, R137). -/
theorem takeSymbols_adding {s : State} (hp : s.phase = .run) (ho : s.opQ = .sumBytes ∨ s.opQ = .verify) (syms : List Byte) :
    takeSymbols syms s = { s with acc := s.acc + Functional.sumBytes syms } := by
  induction syms generalizing s with
  | nil => rw [takeSymbols_nil, sumBytes_nil, BitVec.add_zero]
  | cons c rest ih =>
    rw [takeSymbols_cons, symEvent, takeSymbol_adding hp ho, ih (by exact hp) (by exact ho), sumBytes_cons, ← BitVec.add_assoc]
    rfl

/-- The symbols of DERIVECHK are dropped (R136). -/
theorem takeSymbols_deriveChk {s : State} (ho : s.opQ = .deriveChk) (syms : List Byte) : takeSymbols syms s = s := by
  induction syms with
  | nil => rfl
  | cons c rest ih => rw [takeSymbols_cons, symEvent, takeSymbol_ignored _ _ _ (.inr ho), ih]

/-- SUMBYTES fills `acc` and `sum` (R135). -/
theorem transaction_sumBytes (arg : BitVec 16) (bytes : List Byte) (s : State) :
    transaction .sumBytes arg bytes s =
      closeTransaction
        { openTransaction .sumBytes arg s with acc := Functional.sumBytes bytes, sum := Functional.sumBytes bytes } := by
  rw [transaction, takeSymbols_adding rfl (.inl rfl), openTransaction_acc, zero_add]
  rfl

/-- DERIVECHK inside its domain fills `checksum_calc` (R136). -/
theorem transaction_deriveChk {arg : BitVec 16} (h : arg.toNat ≤ 0xFF) (syms : List Byte) (s : State) :
    transaction .deriveChk arg syms s =
      closeTransaction { openTransaction .deriveChk arg s with checksumCalc := complement (argByte arg) } := by
  rw [transaction, takeSymbols_deriveChk rfl, endEvent_deriveChk rfl rfl, endDeriveChk, if_neg (by simpa using h)]
  rfl

theorem argByte_setWidth (b : Byte) : argByte (b.setWidth 16) = b := by
  apply BitVec.eq_of_toNat_eq
  rw [argByte_toNat, BitVec.toNat_setWidth_of_le (by omega)]
  exact Nat.mod_eq_of_lt b.isLt

/-- The complement of the sum verifies (R134, R141). -/
theorem verify_complement (bytes : List Byte) : Functional.verify bytes (complement (Functional.sumBytes bytes)) = true := by
  rw [Functional.verify, sumBytes_append_singleton, complement, BitVec.add_comm, BitVec.sub_add_cancel]
  exact decide_eq_true rfl

theorem exec_genchk_eq (bytes : List Byte) (s : State) :
    exec (.genchk bytes) s =
      .next (transaction .deriveChk ((Functional.sumBytes bytes).setWidth 16) [] (transaction .sumBytes 0 bytes s)) := by
  rw [exec_genchk, execGenchk, transaction_sumBytes]
  rfl

/-- Settles O30: a sum is always in DERIVECHK's domain, and its complement is the checksum. -/
theorem genchkGenerates : Obligations.GenchkGenerates := by
  intro bytes s
  have hdomain : ((Functional.sumBytes bytes).setWidth 16).toNat ≤ 0xFF := by
    have := (Functional.sumBytes bytes).isLt
    rw [BitVec.toNat_setWidth_of_le (by omega)]
    omega
  refine ⟨_, exec_genchk_eq bytes s, ?_⟩
  rw [transaction_deriveChk hdomain, argByte_setWidth, transaction_sumBytes]
  exact ⟨complement_toNat _, verify_complement bytes, by simp [Safety.NoFrameData]⟩

end Sys2Proof.Machine

/-! PROOF. Runs over event words: every instruction is the run of the words that it stands for (R73, R83, R87, R88). -/

namespace Sys2Proof.Safety

open Machine

/-! The events do not see what the host presents later (log 1). -/

theorem takeSymbol_presenting (cls : CharClass) (v : Nibble) (c : Byte) (items : List HostInput) (s : State) :
    takeSymbol cls v c (presenting items s) = presenting items (takeSymbol cls v c s) := by
  rcases takeSymbol_cases cls v c s with ⟨h, hq⟩ | ⟨h, hp, ho⟩ | ⟨h, hp, ho, rfl⟩ | ⟨h, hp, ho, hcls, hn⟩ |
    ⟨h, hp, ho, hcls, hn⟩ <;> rw [h]
  · exact takeSymbol_ignored cls v c (by exact hq)
  · exact takeSymbol_adding (by exact hp) (by exact ho) cls v c
  · exact takeSymbol_term (by exact hp) (by exact ho) v c
  · exact takeSymbol_high (by exact hp) (by exact ho) hcls (by exact hn) v c
  · exact takeSymbol_low (by exact hp) (by exact ho) hcls (by exact hn) v c

theorem endDecode_presenting (items : List HostInput) (s : State) :
    endDecode (presenting items s) = presenting items (endDecode s) := by
  have h : malformedCause (presenting items s) = malformedCause s := rfl
  unfold endDecode
  rw [h]
  cases malformedCause s <;> rfl

theorem endDeriveChk_presenting (items : List HostInput) (s : State) :
    endDeriveChk (presenting items s) = presenting items (endDeriveChk s) := by
  have h : (presenting items s).argQ = s.argQ := rfl
  unfold endDeriveChk
  rw [h]
  split <;> rfl

theorem endEvent_presenting (items : List HostInput) (s : State) :
    endEvent (presenting items s) = presenting items (endEvent s) := by
  rcases phase_or s with hp | hp
  · rw [endEvent_idle hp]
    exact endEvent_idle (by exact hp)
  · have hp' : (presenting items s).phase = .run := hp
    rcases operation_or s with ho | ho | ho | ho
    · rw [endEvent_decode hp ho, endEvent_decode hp' (by exact ho), endDecode_presenting]
    · rw [endEvent_sumBytes hp ho, endEvent_sumBytes hp' (by exact ho)]
      rfl
    · rw [endEvent_deriveChk hp ho, endEvent_deriveChk hp' (by exact ho), endDeriveChk_presenting]
    · rw [endEvent_verify hp ho, endEvent_verify hp' (by exact ho)]
      rfl

/-! Runs over event words. -/

/-- Runs compose. -/
theorem run_add {k m : Nat} {s t : State} (h : run k s = .next t) : run (k + m) s = run m t := by
  induction k generalizing s with
  | zero =>
    cases h
    rw [Nat.zero_add]
  | succ k ih =>
    obtain ⟨u, hu⟩ : ∃ u, step s = .next u := by
      cases hstep : step s with
      | next u => exact ⟨u, rfl⟩
      | fault r | refused r => simp [run, Host.Core.run, show core.step s = _ from hstep] at h
    rw [run_succ_of_next hu] at h
    rw [Nat.add_right_comm, run_succ_of_next hu, ih h]

/-- The machine that takes the event words goes from `s` to `t`, whatever the host presents after them. -/
def RunsTo (ws : List EventWord) (s t : State) : Prop :=
  ∀ items, run ws.length (presenting (wordEdges ws ++ items) s) = .next (presenting items t)

theorem RunsTo.nil (s : State) : RunsTo [] s s := fun _ => rfl

theorem RunsTo.append {ws ws' : List EventWord} {s t u : State} (h : RunsTo ws s t) (h' : RunsTo ws' t u) :
    RunsTo (ws ++ ws') s u := by
  intro items
  have hedges : wordEdges (ws ++ ws') ++ items = wordEdges ws ++ (wordEdges ws' ++ items) := by simp [wordEdges]
  rw [List.length_append, hedges, run_add (h _)]
  exact h' items

/-- One event word is one step of the instruction that it decodes to. -/
theorem RunsTo.word {w : EventWord} {s t : State}
    (h : ∀ items, exec (decodeEvent w) (presenting items s) = .next (presenting items t)) : RunsTo [w] s t := by
  intro items
  refine run_succ_of_next ((step_presenting (item := .edge (portsOfWord w)) rfl items s).trans ?_)
  rw [decodeInput_edge_portsOfWord]
  exact h items

theorem RunsTo.run_eq {ws : List EventWord} {s t : State} (h : RunsTo ws s t) :
    run ws.length (presenting (wordEdges ws) s) = .next t := by
  have := h []
  rwa [List.append_nil] at this

theorem runsTo_nop (s : State) : RunsTo [nopWord] s s := .word fun _ => rfl

theorem runsTo_start (op : Operation) (arg : BitVec 16) (s : State) :
    RunsTo [startWord op arg] s (openTransaction op arg s) :=
  .word fun items => by rw [decodeEvent_startWord]; cases op <;> rfl

theorem runsTo_sym (c : Byte) (s : State) : RunsTo [symWord c] s (symEvent c s) :=
  .word fun items => by rw [decodeEvent_symWord, exec_sym, execSym, symEvent, takeSymbol_presenting, symEvent]

theorem runsTo_end (s : State) : RunsTo [endWord] s (endEvent s) :=
  .word fun items => by rw [decodeEvent_endWord, exec_endTx, execEndTx, endEvent_presenting]

theorem runsTo_syms (syms : List Byte) (s : State) : RunsTo (syms.map symWord) s (takeSymbols syms s) := by
  induction syms generalizing s with
  | nil => exact .nil s
  | cons c rest ih => exact (runsTo_sym c s).append (ih _)

/-- The words of a transaction run as the transaction (R87, R168). -/
theorem runsTo_transaction (op : Operation) (arg : BitVec 16) (syms : List Byte) (s : State) :
    RunsTo (transactionWords op arg syms) s (transaction op arg syms s) :=
  (runsTo_start op arg s).append ((runsTo_syms syms _).append (runsTo_end _))

/-! Instructions as their event words. -/

/-- The instruction does in one step what its event words do, and takes no reading. -/
def RunsAsEvents (i : Instr) (s : State) : Prop :=
  ∃ t, exec i s = .next t ∧ RunsTo (eventWords i) s t ∧ t.readings = s.readings

/-- A CHAR row is the SYM event of its code (R165; log 7). -/
theorem runsAsEvents_charRow {i : Instr} {c : Byte} (hi : i.WellFormed = true) (hcode : encode i = .char c)
    (hwords : eventWords i = [symWord c]) (s : State) : RunsAsEvents i s := by
  have hrow : decodeChar c = i := by
    rw [← decodeInput_encode hi, hcode, decodeInput]
  obtain ⟨-, -, hexec⟩ := characterRowIsItsSymbol c s
  rw [hrow, exec_sym, execSym] at hexec
  exact ⟨_, hexec, hwords ▸ runsTo_sym c s, symEvent_readings c s⟩

/-- GENCHK's words give DERIVECHK the sum that SUMBYTES leaves (R141). -/
theorem runsAsEvents_genchk (bytes : List Byte) (s : State) : RunsAsEvents (.genchk bytes) s := by
  refine ⟨_, exec_genchk_eq bytes s, ?_, by simp⟩
  rw [eventWords, foldl_add_eq_sumBytes, BitVec.zero_add]
  exact (runsTo_transaction _ _ _ _).append (runsTo_transaction _ _ _ _)

theorem runsAsEvents_of_not_check {i : Instr} (hi : i.WellFormed = true) (hcheck : ∀ text, i ≠ .check text) (s : State) :
    RunsAsEvents i s := by
  cases i with
  | nop => exact ⟨s, rfl, runsTo_nop s, rfl⟩
  | decode arg | sumbytes arg | derivechk arg | verify arg => exact ⟨_, rfl, runsTo_start _ arg s, rfl⟩
  | sym c => exact ⟨_, rfl, runsTo_sym c s, symEvent_readings c s⟩
  | endTx => exact ⟨_, rfl, runsTo_end s, endEvent_readings s⟩
  | char0 | char1 | char2 | char3 | char4 | char5 | char6 | char7 | char8 | char9 | charA | charB | charC | charD | charE | charF
  | charLowerA | charLowerB | charLowerC | charLowerD | charLowerE | charLowerF | charLf | charCr | charOther c =>
    exact runsAsEvents_charRow hi rfl rfl s
  | frame bytes | decodeln text => exact ⟨_, rfl, runsTo_transaction _ _ _ _, transaction_readings _ _ _ _⟩
  | genchk bytes => exact runsAsEvents_genchk bytes s
  | check text => exact absurd rfl (hcheck text)

/-- Settles O33: CHECK is the DECODE of its text with the reading taken; every other instruction is the run of its words. -/
theorem instructionIsItsEvents : Obligations.InstructionIsItsEvents := by
  intro i s hi
  by_cases hcheck : ∃ text, i = .check text
  · obtain ⟨text, rfl⟩ := hcheck
    refine ⟨_, rfl, ?_, fun hne => absurd rfl (hne text)⟩
    rw [← transaction_readings .decode 0 text s]
    exact (runsTo_transaction .decode 0 text s).run_eq
  · obtain ⟨t, hexec, hrun, hread⟩ := runsAsEvents_of_not_check hi (not_exists.mp hcheck) s
    refine ⟨t, hexec, ?_, fun _ => hread⟩
    rw [← hread]
    exact hrun.run_eq

end Sys2Proof.Safety

/-! PROOF. DECODE as a function of its text (R9, R101 to R108): what the registers and PBUF hold after each byte and each
character, and what END publishes of them; DECODELN and CHECK. -/

namespace Sys2Proof.Machine

open Functional

/-! Fields of a frame (R55, R106). -/

theorem frameByte_append_singleton (b : List Byte) (x : Byte) (i : Nat) :
    frameByte (b ++ [x]) i = if i = b.length then x else frameByte b i := by
  unfold frameByte
  rcases Nat.lt_trichotomy i b.length with h | h | h
  · rw [if_neg (by omega), List.getD_append _ _ _ _ h]
  · rw [if_pos h, List.getD_append_right _ _ _ _ (by omega), h, Nat.sub_self]
    rfl
  · rw [if_neg (by omega), List.getD_eq_default _ _ (by simp; omega), List.getD_eq_default _ _ (by omega)]

theorem bigEndian_append_singleton (l : List Byte) (x : Byte) : bigEndian (l ++ [x]) = 256 * bigEndian l + x.toNat := by
  simp [bigEndian, List.foldl_append]

/-- A number is determined by its bytes. -/
theorem eq_bigEndian_of_bytes (l : List Byte) (n : Nat) (hn : n < 256 ^ l.length)
    (hbytes : ∀ k, k < l.length → n / 256 ^ k % 256 = (l.getD (l.length - 1 - k) 0).toNat) : n = bigEndian l := by
  induction l using List.reverseRecOn generalizing n with
  | nil => simpa [bigEndian] using hn
  | append_singleton l x ih =>
    simp only [List.length_append, List.length_singleton, Nat.add_sub_cancel] at hn hbytes
    have hlast : n % 256 = x.toNat := by
      have h := hbytes 0 (by omega)
      rw [Nat.sub_zero, List.getD_append_right _ _ _ _ (by omega), Nat.sub_self, Nat.pow_zero, Nat.div_one] at h
      exact h
    have hrest : n / 256 = bigEndian l := by
      refine ih _ (by rw [Nat.pow_succ] at hn; omega) fun k hk => ?_
      have h := hbytes (k + 1) (by omega)
      rwa [List.getD_append _ _ _ _ (by omega), Nat.pow_succ', ← Nat.div_div_eq_div_mul,
        show l.length - (k + 1) = l.length - 1 - k by omega] at h
    rw [bigEndian_append_singleton, ← hrest, ← hlast]
    omega

/-- A register holds the frame bytes `lo` to `hi`, zero where the frame has none yet, the lower index in the more significant
place (R55). -/
def FieldHolds {w : Nat} (lo hi : Nat) (b : List Byte) (v : BitVec w) : Prop :=
  ∀ k, lo + k ≤ hi → v.extractLsb' (8 * k) 8 = frameByte b (hi - k)

theorem FieldHolds.nil {w : Nat} (lo hi : Nat) : FieldHolds lo hi [] (0 : BitVec w) := by
  intro k _
  simp [frameByte]

/-- The byte that arrives, placed at its own index, makes the field that of one byte more. -/
theorem FieldHolds.append_placeByte {w lo hi i : Nat} {b : List Byte} {v : BitVec w} (h : FieldHolds lo hi b v)
    (hw : w = 8 * (hi + 1 - lo)) (hhi : hi < Config.bidxMax) (hi' : i = min b.length Config.bidxMax) (x : Byte) :
    FieldHolds lo hi (b ++ [x]) (placeByte lo hi i v x) := by
  intro k hk
  have hindex : i = hi - k ↔ hi - k = b.length := by
    rw [hi']
    omega
  rw [placeByte_byte i hk (by omega), frameByte_append_singleton, h k hk]
  simp only [hindex]

theorem placeByte_whole (i lo : Nat) (v b : Byte) : placeByte lo lo i v b = if i = lo then b else v := by
  have h := placeByte_byte i (lo := lo) (hi := lo) (k := 0) (by omega) (by omega) v b
  simpa using h

/-- A field of one byte (R112). -/
theorem FieldHolds.append_single {lo i : Nat} {b : List Byte} {v : Byte} (h : FieldHolds lo lo b v) (hlo : lo < Config.bidxMax)
    (hi : i = min b.length Config.bidxMax) (x : Byte) : FieldHolds lo lo (b ++ [x]) (if i = lo then x else v) := by
  rw [← placeByte_whole]
  exact h.append_placeByte (by omega) hlo hi x

/-- The register is the number of its bytes. -/
theorem FieldHolds.toNat_eq {w lo hi : Nat} {b : List Byte} {v : BitVec w} (h : FieldHolds lo hi b v)
    (hw : w = 8 * (hi + 1 - lo)) : v.toNat = bigEndian ((List.range' lo (hi + 1 - lo)).map (frameByte b)) := by
  apply eq_bigEndian_of_bytes
  · calc v.toNat < 2 ^ w := v.isLt
      _ = 256 ^ _ := by rw [hw, Nat.pow_mul, List.length_map, List.length_range']
  · simp only [List.length_map, List.length_range']
    intro k hk
    have hbyte := congrArg BitVec.toNat (h k (by omega))
    rw [BitVec.extractLsb'_toNat, Nat.shiftRight_eq_div_pow, Nat.pow_mul] at hbyte
    rw [List.getD_eq_getElem _ _ (by simp; omega)]
    simpa [show lo + (hi + 1 - lo - 1 - k) = hi - k by omega] using hbyte

theorem drop_take_eq_map_frameByte (b : List Byte) (lo n : Nat) (h : lo + n ≤ b.length) :
    (b.drop lo).take n = (List.range' lo n).map (frameByte b) := by
  apply List.ext_getElem
  · simp
    omega
  · intro i h1 h2
    simp only [List.length_map, List.length_range'] at h2
    simp [frameByte, List.getElem?_eq_getElem (show lo + i < b.length by omega)]

/-- At END a field with its valid bit set is the frame's field, and zero without (R106, R114). -/
theorem FieldHolds.validOrZero_eq_field {w lo hi j : Nat} {b : List Byte} {v : BitVec w} {fvalid : BitVec 7}
    (h : FieldHolds lo hi b v) (hw : w = 8 * (hi + 1 - lo)) (hlo : lo ≤ hi)
    (hvalid : fvalid.getLsbD j = decide (hi < b.length)) : validOrZero fvalid j v = field w b lo hi := by
  unfold validOrZero field
  rw [hvalid]
  by_cases hlast : hi < b.length
  · rw [if_pos (decide_eq_true hlast), if_pos hlast, drop_take_eq_map_frameByte b lo _ (by omega), ← h.toNat_eq hw,
      BitVec.ofNat_toNat, BitVec.setWidth_eq]
  · rw [if_neg (by simp [hlast]), if_neg hlast]

theorem validBits_getLsbD (n : Nat) {j : Nat} (hj : j < 7) :
    (validBits n).getLsbD j = decide ([3, 4, 12, 14, 16, 17, 18].getD j 0 < n) := by
  by_cases h : n < 19
  · revert j
    interval_cases n <;> decide
  · rw [validBits_of_ge (by omega)]
    interval_cases j <;> simp <;> omega

/-! The bytes taken so far. -/

/-- What the registers and PBUF hold after the bytes `b` of a DECODE that found PBUF as `mem` (R112, R52). -/
structure BytesTaken (b : List Byte) (mem : Memory) (s : State) : Prop where
  bidx : s.bidx.toNat = min b.length Config.bidxMax
  startDelimiter : s.startDelimiter = frameByte b 0
  length : FieldHolds 1 2 b s.length
  frameType : FieldHolds 3 3 b s.frameType
  frameId : FieldHolds 4 4 b s.frameId
  address64 : FieldHolds 5 12 b s.destinationAddress64
  address16 : FieldHolds 13 14 b s.destinationAddress16
  atCommand : FieldHolds 15 16 b s.atCommand
  status : FieldHolds 17 17 b s.status
  response : FieldHolds 18 18 b s.response
  checksum : s.checksum = frameByte b (b.length - 1)
  fvalid : s.fvalid = validBits s.bidx.toNat
  acc : s.acc = sumBytes (b.drop 3)
  stored : ∀ a, a + 3 < b.length → a < Config.pbufSize → readCell s.pbuf a = b[a + 3]?
  kept : ∀ a, b.length ≤ a + 3 → readCell s.pbuf a = readCell mem a

theorem bytesTaken_openTransaction (op : Operation) (arg : BitVec 16) (s : State) :
    BytesTaken [] s.pbuf (openTransaction op arg s) where
  bidx := rfl
  startDelimiter := rfl
  length := .nil 1 2
  frameType := .nil 3 3
  frameId := .nil 4 4
  address64 := .nil 5 12
  address16 := .nil 13 14
  atCommand := .nil 15 16
  status := .nil 17 17
  response := .nil 18 18
  checksum := rfl
  fvalid := validBits_zero.symm
  acc := rfl
  stored := fun _ h => by simp at h
  kept := fun _ _ => rfl

/-- The registers of the pairing of digits are none of these. -/
theorem BytesTaken.pairing {b : List Byte} {mem : Memory} {s : State} (h : BytesTaken b mem s) (hi : Nibble)
    (nib tseen nonhex : Bool) : BytesTaken b mem { s with hi := hi, nib := nib, tseen := tseen, nonhex := nonhex } :=
  ⟨h.bidx, h.startDelimiter, h.length, h.frameType, h.frameId, h.address64, h.address16, h.atCommand, h.status, h.response,
    h.checksum, h.fvalid, h.acc, h.stored, h.kept⟩

/-- A committed byte is one byte more, also where the byte counter saturates (R25, R112). -/
theorem BytesTaken.append_commitByte {b : List Byte} {mem : Memory} {s : State} (h : BytesTaken b mem s) (x : Byte) :
    BytesTaken (b ++ [x]) mem (commitByte x s) where
  bidx := by
    rw [commitByte_bidx, nextIndex_toNat, h.bidx, List.length_append, List.length_singleton]
    simp only [Config.bidxMax]
    omega
  startDelimiter := by
    have hindex : s.bidx.toNat = 0 ↔ 0 = b.length := by
      rw [h.bidx]
      simp only [Config.bidxMax]
      omega
    rw [commitByte_startDelimiter, frameByte_append_singleton, h.startDelimiter]
    simp only [hindex]
  length := h.length.append_placeByte rfl (by decide) h.bidx x
  frameType := h.frameType.append_single (by decide) h.bidx x
  frameId := h.frameId.append_single (by decide) h.bidx x
  address64 := h.address64.append_placeByte rfl (by decide) h.bidx x
  address16 := h.address16.append_placeByte rfl (by decide) h.bidx x
  atCommand := h.atCommand.append_placeByte rfl (by decide) h.bidx x
  status := h.status.append_single (by decide) h.bidx x
  response := h.response.append_single (by decide) h.bidx x
  checksum := by simp [frameByte]
  fvalid := by rw [commitByte_fvalid, h.fvalid, fvalidAfter_validBits, commitByte_bidx]
  acc := by
    have hindex : Config.payloadStart ≤ s.bidx.toNat ↔ 3 ≤ b.length := by
      rw [h.bidx]
      simp only [Config.bidxMax, Config.payloadStart]
      omega
    rw [commitByte_acc, h.acc]
    simp only [hindex]
    split_ifs with h3
    · rw [List.drop_append_of_le_length h3, sumBytes_append_singleton]
    · rw [List.drop_eq_nil_of_le (by omega), List.drop_eq_nil_of_le (by simp; omega)]
  stored := fun a ha hsize => by
    have hbidx := h.bidx
    simp only [Config.bidxMax, Config.pbufSize, List.length_append, List.length_singleton] at hbidx ha hsize
    rw [commitByte_pbuf]
    by_cases hlast : a + 3 = b.length
    · rw [readCell_storeByte_same (pbufTarget_some.mpr (by omega)), hlast, List.getElem?_concat_length]
    · rw [readCell_storeByte_other (by rw [ne_eq, pbufTarget_some]; omega), List.getElem?_append_left (by omega)]
      exact h.stored a (by omega) hsize
  kept := fun a ha => by
    have hbidx := h.bidx
    simp only [Config.bidxMax, List.length_append, List.length_singleton] at hbidx ha
    rw [commitByte_pbuf, readCell_storeByte_other (by rw [ne_eq, pbufTarget_some]; omega)]
    exact h.kept a (by omega)

/-! The characters taken so far. -/

/-- The characters of a text that are no terminators: the digits of its bytes, one of class OTHER among them as digit 0. -/
def digitsOf (t : List Byte) : List Byte := t.filter fun c => decide (classify c ≠ .term)

theorem digitsOf_append (x y : List Byte) : digitsOf (x ++ y) = digitsOf x ++ digitsOf y := List.filter_append ..

theorem digitsOf_term {c : Byte} (h : classify c = .term) : digitsOf [c] = [] := by simp [digitsOf, h]

theorem digitsOf_digit {c : Byte} (h : classify c ≠ .term) : digitsOf [c] = [c] := by simp [digitsOf, h]

theorem textBytes_append_of_even :
    ∀ x y : List Byte, x.length % 2 = 0 → textBytes (x ++ y) = textBytes x ++ textBytes y
  | [], _, _ => rfl
  | [c], _, h => by simp at h
  | c0 :: c1 :: rest, y, h => by
    rw [List.cons_append, List.cons_append, textBytes, textBytes, List.cons_append,
      textBytes_append_of_even rest y (by simp only [List.length_cons] at h; omega)]

theorem textBytes_length : ∀ d : List Byte, (textBytes d).length = d.length / 2
  | [] => rfl
  | [c] => by simp [textBytes]
  | c0 :: c1 :: rest => by
    rw [textBytes, List.length_cons, textBytes_length rest, List.length_cons, List.length_cons]
    omega

theorem strip_append_term {c : Byte} (h : classify c = .term) (t : List Byte) : strip (t ++ [c]) = strip t :=
  List.rdropWhile_concat_pos _ _ _ (decide_eq_true h)

theorem strip_append_digit {c : Byte} (h : classify c ≠ .term) (t : List Byte) : strip (t ++ [c]) = t ++ [c] :=
  List.rdropWhile_concat_neg _ _ _ (by simpa using h)

/-- A text is its stripped text and terminators after it (R101). -/
theorem exists_strip_append (t : List Byte) : ∃ z, t = strip t ++ z ∧ ∀ c ∈ z, classify c = .term :=
  ⟨t.rtakeWhile fun c => decide (classify c = .term), List.rdropWhile_append_rtakeWhile.symm,
    fun _ hc => of_decide_eq_true (List.mem_rtakeWhile_imp (p := fun c => decide (classify c = .term)) hc)⟩

/-- Whether a text has a character outside class HEX. -/
def hasNonhex (t : List Byte) : Bool := t.any fun c => decide (classify c ≠ .hex)

/-- Whether a text has a terminator. -/
def hasTerm (t : List Byte) : Bool := t.any fun c => decide (classify c = .term)

/-- `nonhex` and `tseen` together tell of any character outside class HEX. -/
theorem hasNonhex_eq (t : List Byte) : hasNonhex t = (hasNonhex (strip t) || hasTerm t) := by
  obtain ⟨z, ht, hz⟩ := exists_strip_append t
  rw [Bool.eq_iff_iff]
  simp only [hasNonhex, hasTerm, Bool.or_eq_true, List.any_eq_true, decide_eq_true_eq]
  constructor
  · rintro ⟨c, hc, hcls⟩
    rw [ht, List.mem_append] at hc
    rcases hc with hc | hc
    · exact .inl ⟨c, hc, hcls⟩
    · exact .inr ⟨c, ht ▸ List.mem_append_right _ hc, hz c hc⟩
  · rintro (⟨c, hc, hcls⟩ | ⟨c, hc, hcls⟩)
    · exact ⟨c, ht ▸ List.mem_append_left _ hc, hcls⟩
    · exact ⟨c, hc, by simp [hcls]⟩

/-- Without a character outside class HEX the stripped text is the digits. -/
theorem digitsOf_eq_strip {t : List Byte} (h : hasNonhex (strip t) = false) : digitsOf t = strip t := by
  obtain ⟨z, ht, hz⟩ := exists_strip_append t
  have hdigits : digitsOf (strip t) = strip t := by
    refine List.filter_eq_self.mpr fun c hc => decide_eq_true fun hterm => ?_
    have := List.any_eq_false.mp h c hc
    simp [hterm] at this
  have hterms : digitsOf z = [] := List.filter_eq_nil_iff.mpr fun c hc => by simp [hz c hc]
  calc digitsOf t = digitsOf (strip t ++ z) := by rw [← ht]
    _ = strip t := by rw [digitsOf_append, hdigits, hterms, List.append_nil]

/-- What the state holds after the characters `t` of a DECODE that found PBUF as `mem` (R110 to R112). -/
structure TextTaken (t : List Byte) (mem : Memory) (s : State) : Prop where
  isOpen : s.phase = .run ∧ s.opQ = .decode
  tseen : s.tseen = hasTerm t
  nonhex : s.nonhex = hasNonhex (strip t)
  pairing : (s.nib = false ∧ (digitsOf t).length % 2 = 0) ∨
    (s.nib = true ∧ ∃ d c, digitsOf t = d ++ [c] ∧ d.length % 2 = 0 ∧ s.hi = nibble c)
  bytes : BytesTaken (textBytes (digitsOf t)) mem s

section

variable {t : List Byte} {mem : Memory} {s : State}

theorem TextTaken.nib_eq (h : TextTaken t mem s) :
    s.nib = decide ((digitsOf t).length % 2 = 1) := by
  rcases h.pairing with ⟨hn, heven⟩ | ⟨hn, d, c, hd, heven, -⟩
  · simp [hn, heven]
  · simp only [hn, hd, List.length_append, List.length_singleton]
    exact (decide_eq_true (by omega)).symm

theorem textTaken_openTransaction (arg : BitVec 16) (s : State) : TextTaken [] s.pbuf (openTransaction .decode arg s) :=
  ⟨⟨rfl, rfl⟩, rfl, rfl, .inl ⟨rfl, rfl⟩, bytesTaken_openTransaction .decode arg s⟩

/-- A terminator changes `tseen` alone. -/
theorem TextTaken.append_term (h : TextTaken t mem s) {c : Byte} (hc : classify c = .term) :
    TextTaken (t ++ [c]) mem { s with tseen := true } := by
  have hdigits : digitsOf (t ++ [c]) = digitsOf t := by rw [digitsOf_append, digitsOf_term hc, List.append_nil]
  exact {
    isOpen := h.isOpen
    tseen := by simp [hasTerm, hc]
    nonhex := by rw [strip_append_term hc]; exact h.nonhex
    pairing := by rw [hdigits]; exact h.pairing
    bytes := by rw [hdigits]; exact h.bytes.pairing s.hi s.nib true s.nonhex }

/-- `nonhex` after a character that is no terminator tells of any character outside class HEX so far. -/
theorem TextTaken.nonhexAfter_eq (h : TextTaken t mem s) {c : Byte} (hc : classify c ≠ .term) :
    nonhexAfter (classify c) s.tseen s.nonhex = hasNonhex (strip (t ++ [c])) := by
  have hcls : decide (classify c = .other) = decide (classify c ≠ .hex) := by
    cases hx : classify c <;> simp_all
  have happend : hasNonhex (t ++ [c]) = (hasNonhex t || decide (classify c ≠ .hex)) := by simp [hasNonhex]
  rw [nonhexAfter, h.nonhex, h.tseen, ← hasNonhex_eq, hcls, strip_append_digit hc, happend]

/-- A high digit is held. -/
theorem TextTaken.append_high (h : TextTaken t mem s) {c : Byte} (hc : classify c ≠ .term) (hn : s.nib = false) :
    TextTaken (t ++ [c]) mem
      { s with nonhex := nonhexAfter (classify c) s.tseen s.nonhex, hi := nibble c, nib := true } := by
  have heven : (digitsOf t).length % 2 = 0 := by
    rcases h.pairing with ⟨-, heven⟩ | ⟨hn', -⟩
    · exact heven
    · simp [hn] at hn'
  have hdigits : digitsOf (t ++ [c]) = digitsOf t ++ [c] := by rw [digitsOf_append, digitsOf_digit hc]
  exact {
    isOpen := h.isOpen
    tseen := by simp [hasTerm, hc, h.tseen]
    nonhex := h.nonhexAfter_eq hc
    pairing := .inr ⟨rfl, digitsOf t, c, hdigits, heven, rfl⟩
    bytes := by
      have hbytes : textBytes (digitsOf t ++ [c]) = textBytes (digitsOf t) := by
        rw [textBytes_append_of_even _ _ heven]
        exact List.append_nil _
      rw [hdigits, hbytes]
      exact h.bytes.pairing _ true s.tseen _ }

/-- A low digit completes the byte with the digit held. -/
theorem TextTaken.append_low (h : TextTaken t mem s) {c : Byte} (hc : classify c ≠ .term) (hn : s.nib = true) :
    TextTaken (t ++ [c]) mem
      (commitByte (assembleByte s.hi (nibble c))
        { s with nonhex := nonhexAfter (classify c) s.tseen s.nonhex, nib := false }) := by
  obtain ⟨d, c0, hd, heven, hhi⟩ : ∃ d c0, digitsOf t = d ++ [c0] ∧ d.length % 2 = 0 ∧ s.hi = nibble c0 := by
    rcases h.pairing with ⟨hn', -⟩ | ⟨-, hheld⟩
    · simp [hn] at hn'
    · exact hheld
  have hdigits : digitsOf (t ++ [c]) = d ++ [c0, c] := by
    rw [digitsOf_append, digitsOf_digit hc, hd, List.append_assoc]
    rfl
  exact {
    isOpen := h.isOpen
    tseen := by simp [hasTerm, hc, h.tseen]
    nonhex := h.nonhexAfter_eq hc
    pairing := .inl ⟨rfl, by simp only [hdigits, List.length_append, List.length_cons, List.length_nil]; omega⟩
    bytes := by
      have hbefore : textBytes (digitsOf t) = textBytes d := by
        rw [hd, textBytes_append_of_even _ _ heven]
        exact List.append_nil _
      have hafter : textBytes (d ++ [c0, c]) = textBytes d ++ [assembleByte s.hi (nibble c)] := by
        rw [textBytes_append_of_even _ _ heven, hhi, assembleByte_eq_ofNat]
        rfl
      rw [hdigits, hafter, ← hbefore]
      exact (h.bytes.pairing s.hi false s.tseen _).append_commitByte _ }

theorem TextTaken.append_symEvent (h : TextTaken t mem s) (c : Byte) :
    TextTaken (t ++ [c]) mem (symEvent c s) := by
  obtain ⟨hp, ho⟩ := h.isOpen
  unfold symEvent
  by_cases hc : classify c = .term
  · rw [hc, takeSymbol_term hp ho]
    exact h.append_term hc
  · cases hn : s.nib with
    | false =>
      rw [takeSymbol_high hp ho hc hn]
      exact h.append_high hc hn
    | true =>
      rw [takeSymbol_low hp ho hc hn]
      exact h.append_low hc hn

end

/-- The state of an open DECODE, by the text alone (R110 to R112). -/
theorem textTaken_takeSymbols (arg : BitVec 16) (t : List Byte) (s : State) :
    TextTaken t s.pbuf (takeSymbols t (openTransaction .decode arg s)) := by
  induction t using List.reverseRecOn with
  | nil => exact textTaken_openTransaction arg s
  | append_singleton t c ih =>
    rw [takeSymbols_append]
    exact ih.append_symEvent c

/-! The end of DECODE (R113 to R115). -/

theorem results_endDecode_of_malformed {s : State} {c : Cause} (h : malformedCause s = some c) :
    (endDecode s).results = noResult (errorCode c) (causeCode c) := by
  rw [endDecode, h]
  rfl

theorem deriveChecksum_toNat (x : Byte) : deriveChecksum x.toNat = some (complement x) := by
  have hx := x.isLt
  rw [deriveChecksum, if_pos (by omega)]
  congr 1
  apply BitVec.eq_of_toNat_eq
  rw [complement_toNat, BitVec.toNat_ofNat]
  omega

/-- The bytes from index 3 on are the payload and the checksum (R107, R108). -/
theorem drop_three_eq {b : List Byte} (h : 4 ≤ b.length) : b.drop 3 = payloadOf b ++ [frameByte b (b.length - 1)] := by
  have hlast : (b.drop 3).drop (b.length - 4) = [frameByte b (b.length - 1)] := by
    rw [List.drop_drop, show 3 + (b.length - 4) = b.length - 1 by omega, List.drop_eq_getElem_cons (by omega),
      List.drop_eq_nil_of_le (by omega), frameByte, List.getD_eq_getElem _ _ (by omega)]
  rw [payloadOf, ← hlast, List.take_append_drop]

theorem BytesTaken.length_eq {b : List Byte} {mem : Memory} {s : State} (h : BytesTaken b mem s) :
    s.length.toNat = lengthOf b := by
  rw [h.length.toNat_eq rfl]
  simp [bigEndian, lengthOf, List.range']

/-- A frame that passes the checks is published as the functional form has it (R106 to R108, R114). -/
theorem BytesTaken.results_publishFrame {b : List Byte} {mem : Memory} {s : State} (h : BytesTaken b mem s) (h4 : 4 ≤ b.length)
    (hlength : lengthOf b = b.length - 4) : (closeTransaction (publishFrame s)).results = frameResult b := by
  have hlt := s.length.isLt
  have hlen := h.length_eq
  have hbidx : s.bidx.toNat = b.length := by
    rw [h.bidx]
    simp only [Config.bidxMax]
    omega
  have hvalid : ∀ {j}, j < 7 → s.fvalid.getLsbD j = decide ([3, 4, 12, 14, 16, 17, 18].getD j 0 < b.length) := by
    rw [h.fvalid, hbidx]
    exact fun hj => validBits_getLsbD _ hj
  have hacc : s.acc = sumBytes (payloadOf b) + s.checksum := by
    rw [h.acc, drop_three_eq h4, sumBytes_append_singleton, h.checksum]
  have hsum : s.acc = sumBytes (payloadOf b ++ [frameByte b (b.length - 1)]) := by rw [← drop_three_eq h4, h.acc]
  have hpayload : s.acc - s.checksum = sumBytes (payloadOf b) := by rw [hacc, BitVec.add_sub_cancel]
  have hcount : (BitVec.ofNat 16 (b.length - 4)).toNat = b.length - 4 := by
    rw [BitVec.toNat_ofNat]
    omega
  simp only [State.results, frameResult, Results.mk.injEq, closeTransaction_done]
  refine ⟨h.startDelimiter, ?_, h.frameType.validOrZero_eq_field rfl (by decide) (hvalid (by decide)),
    h.frameId.validOrZero_eq_field rfl (by decide) (hvalid (by decide)),
    h.address64.validOrZero_eq_field rfl (by decide) (hvalid (by decide)),
    h.address16.validOrZero_eq_field rfl (by decide) (hvalid (by decide)),
    h.atCommand.validOrZero_eq_field rfl (by decide) (hvalid (by decide)),
    h.status.validOrZero_eq_field rfl (by decide) (hvalid (by decide)),
    h.response.validOrZero_eq_field rfl (by decide) (hvalid (by decide)),
    h.checksum, by rw [← hbidx]; exact h.fvalid, ?_, ?_, hsum, hpayload, ?_, rfl, rfl, trivial, ?_⟩
  · rw [← hlen, BitVec.ofNat_toNat, BitVec.setWidth_eq]
    rfl
  · rw [closeTransaction_payloadCount, publishFrame_payloadCount, hbidx]
  · rw [closeTransaction_verdict, publishFrame_verdict, hsum]
    rfl
  · rw [closeTransaction_checksumCalc, publishFrame_checksumCalc, hpayload, deriveChecksum_toNat]
    rfl
  · rw [State.payloadBytes, closeTransaction_payloadCount, publishFrame_payloadCount, hbidx, hcount]
    apply List.ext_getElem
    · simp [payloadOf]
      omega
    · intro a ha ha'
      simp only [List.length_map, List.length_range] at ha
      have hcell : readCell s.pbuf a = some b[a + 3] := by
        rw [h.stored a (by omega) (by simp only [Config.pbufSize]; omega), List.getElem?_eq_getElem]
      simp [payloadOf, State.pbufByte, hcell, Nat.add_comm 3]

/-- END publishes the functional form's result of the text (R101 to R108, R113 to R116). -/
theorem TextTaken.results_endDecode {t : List Byte} {mem : Memory} {s : State} (h : TextTaken t mem s) :
    (endDecode s).results = decodeText t := by
  by_cases hnonhex : hasNonhex (strip t) = true
  · rw [decodeText, ← hasNonhex, if_pos hnonhex]
    exact results_endDecode_of_malformed (c := .nonhex) (by simp [malformedCause, h.nonhex, hnonhex])
  · have hdigits : digitsOf t = strip t := digitsOf_eq_strip (by simpa using hnonhex)
    have hhex : s.nonhex = false := by simpa [h.nonhex] using hnonhex
    have hnib : s.nib = decide ((strip t).length % 2 = 1) := hdigits ▸ h.nib_eq
    have hbytes : BytesTaken (textBytes (strip t)) mem s := hdigits ▸ h.bytes
    have hcount := textBytes_length (strip t)
    have hbidx := hbytes.bidx
    have hlength := hbytes.length_eq
    have hlt := s.length.isLt
    simp only [Config.bidxMax] at hbidx
    rw [decodeText, ← hasNonhex, if_neg hnonhex, decodeBytes]
    split_ifs with hodd hshort hdelim hpayload
    · exact results_endDecode_of_malformed (c := .odd) (by simp [malformedCause, hhex, hnib, hodd])
    · have hmin : s.bidx.toNat < 4 := by omega
      exact results_endDecode_of_malformed (c := .short) (by simp [malformedCause, hhex, hnib, hodd, hmin])
    · have hmin : ¬ s.bidx.toNat < 4 := by omega
      exact results_endDecode_of_malformed (c := .delim)
        (by simp [malformedCause, hhex, hnib, hodd, hmin, hbytes.startDelimiter, hdelim])
    · have hmin : ¬ s.bidx.toNat < 4 := by omega
      have hne : s.length.toNat + 4 ≠ s.bidx.toNat := by omega
      exact results_endDecode_of_malformed (c := .length)
        (by simp [malformedCause, hhex, hnib, hodd, hmin, hbytes.startDelimiter, not_not.mp hdelim, hne])
    · have hnone : malformedCause s = none :=
        malformedCause_none.mpr
          ⟨hhex, by simp [hnib, hodd], by omega, hbytes.startDelimiter.trans (not_not.mp hdelim), by omega⟩
      rw [endDecode, hnone]
      exact hbytes.results_publishFrame (by omega) (not_not.mp hpayload)

/-! DECODE as a whole transaction. -/

/-- DECODE of a text gives the functional form's result (R116). -/
theorem results_transaction_decode (arg : BitVec 16) (t : List Byte) (s : State) :
    (transaction .decode arg t s).results = decodeText t := by
  have h := textTaken_takeSymbols arg t s
  rw [transaction, endEvent_decode h.isOpen.1 h.isOpen.2, h.results_endDecode]

/-- DECODE writes no cell beyond its text's bytes (R52). -/
theorem readCell_transaction_decode_beyond (arg : BitVec 16) {t : List Byte} {a : Nat} (h : t.length / 2 ≤ a + 3) (s : State) :
    readCell (transaction .decode arg t s).pbuf a = readCell s.pbuf a := by
  have hdigits : (digitsOf t).length ≤ t.length := List.length_filter_le ..
  rw [transaction, endEvent_pbuf]
  refine (textTaken_takeSymbols arg t s).bytes.kept a ?_
  rw [textBytes_length]
  omega

theorem decodeText_append_term {c : Byte} (h : classify c = .term) (t : List Byte) : decodeText (t ++ [c]) = decodeText t := by
  rw [decodeText, strip_append_term h, decodeText]

theorem pbuf_transaction_append_term {c : Byte} (hc : classify c = .term) (arg : BitVec 16) (t : List Byte) (s : State) :
    (transaction .decode arg (t ++ [c]) s).pbuf = (transaction .decode arg t s).pbuf := by
  obtain ⟨hp, ho⟩ := (textTaken_takeSymbols arg t s).isOpen
  rw [transaction, transaction, endEvent_pbuf, endEvent_pbuf, takeSymbols_append, takeSymbols_cons, takeSymbols_nil,
    symEvent, hc, takeSymbol_term hp ho]

/-- Settles O31: a line feed after the text is stripped, and writes nothing. -/
theorem decodelnAgreesWithDecode : Obligations.DecodelnAgreesWithDecode := by
  intro text s
  have hterm : classify 0x0A#8 = .term := by decide
  have hresults : (transaction .decode 0 (text ++ [0x0A#8]) s).results = decodeText text := by
    rw [results_transaction_decode, decodeText_append_term hterm]
  have hpbuf := pbuf_transaction_append_term hterm 0 text s
  refine ⟨_, rfl, ?_, hresults, hpbuf, (transaction_closes ..).1, by simp, by simp, by simp, by simp, fun a ha => ?_⟩
  · rw [hresults, results_transaction_decode]
  · rw [hpbuf, readCell_transaction_decode_beyond 0 ha]

theorem negate9_eq_ofInt (r : Byte) : negate9 r = BitVec.ofInt 9 (-(r.toNat : Int)) := by
  rw [← negate9_toInt, BitVec.ofInt_toInt]

/-- `reading` depends on the result alone (R36, R109). -/
theorem reading_of_results {s : State} {t : List Byte} (h : s.results = decodeText t) (hd : s.done = true)
    (ho : s.opQ = .decode) : s.reading = readingOf t := by
  unfold readingOf
  rw [← h]
  simp [State.reading, State.frameOk, State.results, State.signalStrength, negate9_eq_ofInt, hd, ho, and_assoc]

/-- Settles O32: CHECK is the DECODE of its text, and takes the reading of its result. -/
theorem checkTakesReading : Obligations.CheckTakesReading := by
  intro text s
  have hresults := results_transaction_decode 0 text s
  obtain ⟨hidle, hdone⟩ := transaction_closes .decode 0 text s
  have hreading : (transaction .decode 0 text s).reading = readingOf text :=
    reading_of_results hresults hdone (transaction_opQ ..)
  refine ⟨_, rfl, hresults, hreading, ?_, hidle, by simp, by simp, by simp, fun a ha => ?_⟩
  · rw [takeReading_readings, transaction_readings, hreading]
  · exact readCell_transaction_decode_beyond 0 ha s

end Sys2Proof.Machine

/-! PROOF. DECODE as 40_decode.md has it: a character of its text, the checks at its END, and a frame's text delivered. -/

namespace Sys2Proof.Safety

open Machine Functional

/-! A character (R110 to R112). -/

/-- Settles O17: a terminator is seen, a high digit is held, and a low digit commits its byte. -/
theorem decodeSymbol : Obligations.DecodeSymbol := by
  intro c s hp ho
  rw [exec_sym, execSym, symEvent]
  refine ⟨fun hc => ?_, fun hc hn => ?_, fun hc hn => ⟨_, rfl, takeSymbol_low_committed hp ho hc hn (nibble c) c⟩⟩
  · rw [hc, takeSymbol_term hp ho]
  · rw [takeSymbol_high hp ho hc hn, nonhexAfter]

/-! The checks at END, in the order of R113. -/

section

variable {s : State}

theorem malformedCause_nonhex (hnonhex : s.nonhex = true) : malformedCause s = some .nonhex := by
  simp [malformedCause, hnonhex]

theorem malformedCause_odd (hnonhex : s.nonhex = false) (hnib : s.nib = true) : malformedCause s = some .odd := by
  simp [malformedCause, hnonhex, hnib]

theorem malformedCause_short (hnonhex : s.nonhex = false) (hnib : s.nib = false) (hmin : s.bidx.toNat < 4) :
    malformedCause s = some .short := by
  simp [malformedCause, hnonhex, hnib, hmin]

theorem malformedCause_delim (hnonhex : s.nonhex = false) (hnib : s.nib = false) (hmin : 4 ≤ s.bidx.toNat)
    (hdelim : s.startDelimiter ≠ 0x7E#8) : malformedCause s = some .delim := by
  simp [malformedCause, hnonhex, hnib, Nat.not_lt.mpr hmin, hdelim]

theorem malformedCause_length (hnonhex : s.nonhex = false) (hnib : s.nib = false) (hmin : 4 ≤ s.bidx.toNat)
    (hdelim : s.startDelimiter = 0x7E#8) (hlength : s.length.toNat ≠ s.bidx.toNat - 4) : malformedCause s = some .length := by
  have hcount : s.length.toNat + 4 ≠ s.bidx.toNat := by omega
  simp [malformedCause, hnonhex, hnib, Nat.not_lt.mpr hmin, hdelim, hcount]

/-- A check that holds is published as an error (R113, R115). -/
theorem exec_endTx_of_malformed {c : Cause} (hp : s.phase = .run) (ho : s.opQ = .decode) (hm : malformedCause s = some c) :
    exec .endTx s = .next (failed (errorCode c) (causeCode c) s) := by
  rw [exec_endTx, execEndTx, endEvent_decode hp ho, endDecode, hm]
  rfl

/-- A frame that passes the checks is published (R113, R114). -/
theorem exec_endTx_of_frame (hp : s.phase = .run) (ho : s.opQ = .decode) (hm : malformedCause s = none) :
    exec .endTx s = .next (closeTransaction (publishFrame s)) := by
  rw [exec_endTx, execEndTx, endEvent_decode hp ho, endDecode, hm]

/-- The success publication, register by register (R114). -/
theorem framePublished_of_checks (hm : malformedCause s = none) : FramePublished s (closeTransaction (publishFrame s)) where
  payloadCount := by
    obtain ⟨-, -, -, -, hlength⟩ := malformedCause_none.mp hm
    have hlt := s.length.isLt
    simp only [closeTransaction_payloadCount, publishFrame_payloadCount, Config.minFrameBytes, BitVec.toNat_ofNat]
    omega
  sum := rfl
  verdict := verdictOf_eq_true_iff _
  sumPayload := by
    have hchecksum := s.checksum.isLt
    rw [closeTransaction_sumPayload, publishFrame_sumPayload, BitVec.toNat_sub]
    omega
  checksumCalc := complement_toNat _
  codes := ⟨rfl, rfl, rfl, rfl⟩
  frameType := rfl
  frameId := rfl
  address64 := rfl
  address16 := rfl
  atCommand := rfl
  status := rfl
  response := rfl
  unchanged := by simp

end

/-- Settles O24: each check of R113 in its turn, and the publication of a frame that passes them. -/
theorem endOfDecode : Obligations.EndOfDecode := by
  intro s hp ho
  refine ⟨fun hnonhex => ?_, fun hnonhex hnib => ?_, fun hnonhex hnib hmin => ?_, fun hnonhex hnib hmin hdelim => ?_,
    fun hnonhex hnib hmin hdelim hlength => ?_, fun hnonhex hnib hmin hdelim hlength => ?_⟩
  · exact exec_endTx_of_malformed hp ho (malformedCause_nonhex hnonhex)
  · exact exec_endTx_of_malformed hp ho (malformedCause_odd hnonhex hnib)
  · exact exec_endTx_of_malformed hp ho (malformedCause_short hnonhex hnib hmin)
  · exact exec_endTx_of_malformed hp ho (malformedCause_delim hnonhex hnib hmin hdelim)
  · exact exec_endTx_of_malformed hp ho (malformedCause_length hnonhex hnib hmin hdelim hlength)
  · have hm : malformedCause s = none := malformedCause_none.mpr ⟨hnonhex, hnib, hmin, hdelim, by omega⟩
    exact ⟨_, exec_endTx_of_frame hp ho hm, framePublished_of_checks hm⟩

/-! The text of a frame (R73, R103). -/

theorem classify_of_mem_frameText {bytes : List Byte} {c : Byte} (hc : c ∈ frameText bytes) : classify c = .hex := by
  obtain ⟨b, -, hb⟩ := List.mem_flatMap.mp hc
  simp only [hexText, List.mem_cons, List.not_mem_nil, or_false] at hb
  rcases hb with rfl | rfl <;> exact classify_digit _

theorem strip_frameText (bytes : List Byte) : strip (frameText bytes) = frameText bytes :=
  List.rdropWhile_eq_self_iff.mpr fun hne => by simp [classify_of_mem_frameText (List.getLast_mem hne)]

theorem hasNonhex_frameText (bytes : List Byte) : hasNonhex (frameText bytes) = false :=
  List.any_eq_false.mpr fun _ hc => by simp [classify_of_mem_frameText hc]

theorem digitsOf_frameText (bytes : List Byte) : digitsOf (frameText bytes) = frameText bytes := by
  have hdigits := digitsOf_eq_strip (t := frameText bytes) (by rw [strip_frameText, hasNonhex_frameText])
  rwa [strip_frameText] at hdigits

/-- The bytes of a frame's text are the frame (R73, R79). -/
theorem textBytes_frameText (bytes : List Byte) : textBytes (frameText bytes) = bytes := by
  induction bytes with
  | nil => rfl
  | cons b rest ih =>
    have hpair : textBytes (frameText (b :: rest)) = textBytes (hexText b) ++ textBytes (frameText rest) :=
      textBytes_append_of_even _ _ (by rw [hexText_length])
    have hbyte : textBytes (hexText b) = [b] := by
      rw [hexText, textBytes, ← assembleByte_eq_ofNat, nibble_digit, nibble_digit, assembleByte_halves]
      rfl
    rw [hpair, hbyte, ih, List.singleton_append]

theorem frameShape_iff (bytes : List Byte) :
    frameShape bytes = true ↔ 4 ≤ bytes.length ∧ frameByte bytes 0 = 0x7E#8 ∧ lengthOf bytes + 4 = bytes.length := by
  simp [frameShape, frameByte, lengthOf, and_assoc]

theorem lengthOf_lt (bytes : List Byte) : lengthOf bytes < 65536 := by
  have hhigh := (frameByte bytes 1).isLt
  have hlow := (frameByte bytes 2).isLt
  unfold lengthOf
  omega

/-- The text of a well-formed frame passes every check of DECODE (R101 to R105). -/
theorem decodeText_frameText {bytes : List Byte} (hshape : frameShape bytes = true) :
    decodeText (frameText bytes) = frameResult bytes := by
  obtain ⟨hmin, hdelim, hlength⟩ := (frameShape_iff bytes).mp hshape
  rw [decodeText, strip_frameText, ← hasNonhex, hasNonhex_frameText, if_neg (by simp), frameText_length, if_neg (by omega),
    if_neg (by omega), textBytes_frameText, decodeBytes, if_neg (by simp [hdelim]), if_neg (by omega)]

/-- Settles O29: the text of the frame decodes to its bytes, and each byte was stored as it came. -/
theorem frameRowDelivers : Obligations.FrameRowDelivers := by
  intro bytes s hshape
  have hlength : lengthOf bytes + 4 = bytes.length := ((frameShape_iff bytes).mp hshape).2.2
  have hlt := lengthOf_lt bytes
  have htaken := (textTaken_takeSymbols 0 (frameText bytes) s).bytes
  rw [digitsOf_frameText, textBytes_frameText] at htaken
  have hpbuf : (transaction .decode 0 (frameText bytes) s).pbuf =
      (takeSymbols (frameText bytes) (openTransaction .decode 0 s)).pbuf := endEvent_pbuf _
  refine ⟨_, rfl, ?_, (transaction_closes ..).1, by simp, by simp, by simp, fun a ha => ?_, fun a ha => ?_⟩
  · rw [results_transaction_decode, decodeText_frameText hshape]
  · rw [hpbuf, htaken.stored a ha (by simp only [Config.pbufSize]; omega)]
  · rw [hpbuf, htaken.kept a ha]

/-! Every operation as a function of its input (R116, R168). -/

/-- DERIVECHK outside its domain publishes its error (R136, R186). -/
theorem transaction_deriveChk_outside {arg : BitVec 16} (h : 0xFF < arg.toNat) (syms : List Byte) (s : State) :
    transaction .deriveChk arg syms s = publishError .domain (openTransaction .deriveChk arg s) := by
  rw [transaction, takeSymbols_deriveChk rfl, endEvent_deriveChk rfl rfl, endDeriveChk, if_pos (by exact h)]

/-- VERIFY fills `acc` with the sum of its bytes, and `sum` and `verdict` with that of the asserted checksum too (R137). -/
theorem transaction_verify (arg : BitVec 16) (bytes : List Byte) (s : State) :
    transaction .verify arg bytes s =
      closeTransaction
        { openTransaction .verify arg s with
          acc := Functional.sumBytes bytes
          sum := Functional.sumBytes (bytes ++ [argByte arg])
          verdict := Functional.verify bytes (argByte arg) } := by
  rw [Functional.verify, sumBytes_append_singleton, transaction, takeSymbols_adding rfl (.inr rfl), openTransaction_acc, zero_add]
  rfl

/-- Inside the domain the low byte of the argument is the whole of it (R131). -/
theorem deriveChecksum_argByte {arg : BitVec 16} (h : arg.toNat ≤ 0xFF) :
    deriveChecksum arg.toNat = some (complement (argByte arg)) := by
  have harg : arg.toNat = (argByte arg).toNat := by
    rw [argByte_toNat]
    omega
  rw [harg, deriveChecksum_toNat]

theorem deriveChecksum_outside {n : Nat} (h : 0xFF < n) : deriveChecksum n = none := if_neg (by omega)

theorem results_transaction (op : Operation) (arg : BitVec 16) (syms : List Byte) (s : State) :
    (transaction op arg syms s).results = Functional.result op arg syms := by
  cases op with
  | decode => exact results_transaction_decode arg syms s
  | sumBytes =>
    rw [transaction_sumBytes]
    rfl
  | deriveChk =>
    by_cases hdomain : arg.toNat ≤ 0xFF
    · rw [transaction_deriveChk hdomain, Functional.result, deriveChecksum_argByte hdomain]
      rfl
    · rw [transaction_deriveChk_outside (by omega), Functional.result, deriveChecksum_outside (by omega)]
      rfl
  | verify =>
    rw [transaction_verify]
    rfl

/-! NOPs among the event words (R161). -/

/-- An event does not see what the host presents later (log 1). -/
theorem exec_event_presenting {w : EventWord} {s t : State} (h : exec (decodeEvent w) s = .next t) (items : List HostInput) :
    exec (decodeEvent w) (presenting items s) = .next (presenting items t) := by
  unfold decodeEvent at h ⊢
  split_ifs at h ⊢
  · cases h
    rfl
  · unfold decodeStart at h ⊢
    split_ifs at h ⊢ <;> cases h <;> rfl
  · cases h
    exact congrArg _ (takeSymbol_presenting ..)
  · cases h
    exact congrArg _ (endEvent_presenting ..)

theorem exists_runsTo_word (w : EventWord) (s : State) : ∃ t, RunsTo [w] s t := by
  have hkept : KeptByEvents fun _ => True := by constructor <;> simp
  obtain ⟨t, ht, -⟩ := hkept.exec_next (decodeEvent w) (s := s) trivial
  exact ⟨t, .word (exec_event_presenting ht)⟩

theorem runsTo_of_inactive {w : EventWord} (h : isActive w = false) (s : State) : RunsTo [w] s s := by
  have hnop : decodeEvent w = .nop := if_pos (by simpa [isActive] using h)
  exact .word fun _ => by rw [hnop, exec_nop, execNop]

/-- The run of the first words is the beginning of the run of all. -/
theorem RunsTo.after {ws ws' : List EventWord} {s t u : State} (h : RunsTo ws s t) (h' : RunsTo (ws ++ ws') s u) :
    RunsTo ws' t u := by
  intro items
  have hedges : wordEdges (ws ++ ws') ++ items = wordEdges ws ++ (wordEdges ws' ++ items) := by simp [wordEdges]
  rw [← h' items, List.length_append, hedges, run_add (h _)]

/-- NOPs among event words make no difference to their run. -/
theorem RunsTo.of_filter_isActive {ws : List EventWord} {s t : State} (h : RunsTo (ws.filter isActive) s t) : RunsTo ws s t := by
  induction ws generalizing s with
  | nil => exact h
  | cons w rest ih =>
    by_cases hw : isActive w = true
    · obtain ⟨u, hu⟩ := exists_runsTo_word w s
      rw [List.filter_cons_of_pos hw] at h
      exact hu.append (ih (hu.after h))
    · rw [List.filter_cons_of_neg hw] at h
      exact (runsTo_of_inactive (by simpa using hw) s).append (ih h)

/-- Settles O34: without its NOPs the run is the transaction, and the transaction's result is the functional form's. -/
theorem transactionAgreesWithFunction : Obligations.TransactionAgreesWithFunction := by
  intro op arg syms ws s hws
  have hrun : RunsTo ws s (transaction op arg syms s) := .of_filter_isActive (hws ▸ runsTo_transaction op arg syms s)
  exact ⟨_, hrun.run_eq, results_transaction op arg syms s, (transaction_closes ..).1, by simp, by simp, by simp, by simp⟩

end Sys2Proof.Safety

/-! PROOF. The checksum laws of 41_checksum.md (R130 to R134), and the three operations that compute with them (R135 to R137). -/

namespace Sys2Proof.Safety

open Machine Functional

/-! The sum, the complement and the verification (R130 to R134). -/

theorem sumBytes_append (x y : List Byte) :
    sumBytes (x ++ y) = sumBytes x + sumBytes y := by
  induction x with
  | nil => exact (BitVec.zero_add _).symm
  | cons b rest ih => rw [List.cons_append, sumBytes_cons, ih, sumBytes_cons, BitVec.add_assoc]

theorem sumBytes_perm {x y : List Byte} (h : x.Perm y) : sumBytes x = sumBytes y :=
  congrArg (BitVec.ofNat 8) (h.map BitVec.toNat).sum_eq

theorem complement_complement (x : Byte) : complement (complement x) = x := sub_sub_cancel _ x

theorem ne_complement (x : Byte) : x ≠ complement x := by
  intro h
  have htoNat : x.toNat = 255 - x.toNat := (congrArg BitVec.toNat h).trans (complement_toNat x)
  omega

/-- A checksum verifies exactly when it is the generator's (R131, R132). -/
theorem verify_iff (p : List Byte) (k : Byte) : verify p k = true ↔ k = complement (sumBytes p) := by
  rw [verify, decide_eq_true_iff, sumBytes_append_singleton, complement, eq_sub_iff_add_eq']

/-- Sequences that verify with the same checksum have the same sum. -/
theorem sumBytes_eq_of_verify {p q : List Byte} {k : Byte} (hp : verify p k = true)
    (hq : verify q k = true) : sumBytes p = sumBytes q :=
  sub_right_injective (((verify_iff p k).mp hp).symm.trans ((verify_iff q k).mp hq))

/-- One byte of a sequence is determined by the others and the sum. -/
theorem byte_eq_of_sumBytes_eq {x y : List Byte} {b b' : Byte}
    (h : sumBytes (x ++ b :: y) = sumBytes (x ++ b' :: y)) : b = b' := by
  simp only [sumBytes_append, sumBytes_cons] at h
  exact add_right_cancel (add_left_cancel h)

/-- Settles O43: the sum of a reordering, of a concatenation, and in the domain of DERIVECHK. -/
theorem sumLaws : Obligations.SumLaws := by
  refine ⟨fun x y => sumBytes_perm, fun x y => ?_, fun x => ?_⟩
  · rw [sumBytes_append, BitVec.toNat_add]
  · rw [deriveChecksum_toNat]
    exact Option.some_ne_none _

/-- Settles O44: inside the domain the result is the complement, which is its own inverse and, 255 being odd, has no fixed point. -/
theorem complementLaws : Obligations.ComplementLaws := by
  refine ⟨fun x => ⟨complement x, deriveChecksum_toNat x, complement_toNat x, ?_, ne_complement x⟩,
    fun n => deriveChecksum_outside⟩
  rw [deriveChecksum_toNat, complement_complement]

/-- Settles O45: the one checksum that verifies is the complement of the sum, and a changed byte changes the sum. -/
theorem verifyLaws : Obligations.VerifyLaws := by
  refine ⟨fun p k => ?_, fun x y b b' k hb ⟨hverify, hverify'⟩ => ?_⟩
  · rw [verify_iff, deriveChecksum_toNat, Option.some_inj, eq_comm]
  · exact hb (byte_eq_of_sumBytes_eq (sumBytes_eq_of_verify hverify hverify'))

/-! The word of a START, and a symbol and END of each operation (R135 to R137). -/

theorem decodeEvent_start_ofNat (op : Operation) (arg : BitVec 16) :
    decodeEvent (BitVec.ofNat 28 (0x4000000 + (opCode op).toNat * 0x1000000 + arg.toNat * 0x100)) = startInstr op arg := by
  rw [← startWord_eq_ofNat, decodeEvent_startWord]

theorem exec_sym_adding {s : State} (hp : s.phase = .run) (ho : s.opQ = .sumBytes ∨ s.opQ = .verify) (d : Byte) :
    exec (.sym d) s = .next { s with acc := BitVec.ofNat 8 (s.acc.toNat + d.toNat) } := by
  rw [exec_sym, execSym, symEvent, takeSymbol_adding hp ho, addByte, BitVec.add_def]

theorem complement_argByte {arg : BitVec 16} (h : arg.toNat ≤ 0xFF) :
    complement (argByte arg) = BitVec.ofNat 8 (0xFF - arg.toNat) :=
  Option.some.inj ((deriveChecksum_argByte h).symm.trans (if_pos h))

theorem add_argByte (acc : Byte) (arg : BitVec 16) : acc + argByte arg = BitVec.ofNat 8 (acc.toNat + arg.toNat % 256) := by
  rw [BitVec.add_def, argByte_toNat]

theorem verdictOf_ofNat (n : Nat) : verdictOf (BitVec.ofNat 8 n) = decide (n % 256 = 0xFF) := by
  apply decide_eq_decide.mpr
  rw [← BitVec.toNat_inj, BitVec.toNat_ofNat]
  rfl

/-- Settles O21: every symbol is added to `acc`, END publishes it, and so `sum` is the sum of the symbols. -/
theorem sumbytesOperation : Obligations.SumbytesOperation := by
  refine ⟨rfl, fun arg s => ⟨_, rfl, rfl, rfl, rfl⟩, fun d s hp ho => ⟨exec_sym_adding hp (.inl ho) d, ?_⟩,
    fun arg bytes s => ?_⟩
  · rw [exec_endTx, execEndTx, endEvent_sumBytes hp ho]
    rfl
  · rw [transaction_sumBytes]
    exact ⟨rfl, rfl, rfl, rfl, rfl⟩

/-- Settles O22: the symbols are dropped, and END publishes the complement of the argument, or the domain error. -/
theorem derivechkOperation : Obligations.DerivechkOperation := by
  refine ⟨decodeEvent_start_ofNat .deriveChk, fun arg s => ⟨_, rfl, rfl, rfl, rfl, rfl⟩, fun d s hp ho => ?_,
    fun arg syms s => ?_⟩
  · rw [exec_sym, execSym, symEvent, takeSymbol_derive hp ho, exec_endTx, execEndTx, endEvent_deriveChk hp ho, endDeriveChk]
    refine ⟨rfl, fun houtside => ?_, fun hinside => ?_⟩
    · rw [if_pos houtside]
      rfl
    · rw [if_neg (Nat.not_lt.mpr hinside), complement_argByte hinside]
      rfl
  · refine ⟨?_, rfl, fun houtside => ?_, fun hinside => ?_⟩
    · rw [transaction, endEvent_pbuf, takeSymbols_deriveChk rfl, openTransaction_pbuf]
    · rw [transaction_deriveChk_outside houtside]
      exact ⟨rfl, rfl, rfl⟩
    · rw [transaction_deriveChk hinside]
      exact ⟨rfl, (deriveChecksum_argByte hinside).symm⟩

/-- Settles O23: every symbol is added to `acc`, END adds the asserted checksum, and the verdict is that of the whole sum. -/
theorem verifyOperation : Obligations.VerifyOperation := by
  refine ⟨fun k => ?_, fun arg s => ⟨_, rfl, rfl, rfl, rfl, rfl⟩,
    fun d s hp ho => ⟨exec_sym_adding hp (.inr ho) d, ?_⟩, fun arg bytes s => ?_⟩
  · rw [← BitVec.toNat_setWidth_of_le (by omega : 8 ≤ 16)]
    exact decodeEvent_start_ofNat .verify (k.setWidth 16)
  · rw [exec_endTx, execEndTx, endEvent_verify hp ho, endVerify, add_argByte, verdictOf_ofNat]
    rfl
  · rw [transaction_verify]
    exact ⟨rfl, rfl, rfl, rfl⟩

end Sys2Proof.Safety

/-! PROOF. Sequencing, after 42_sequencing.md: the step, NOP, START, the events outside a transaction, and where errors are raised. -/

namespace Sys2Proof.Machine

/-! The step (R160). -/

/-- What holds of every state is kept: `KeptByEvents` says of it that no event stops the machine (R160). -/
theorem kept_true : KeptByEvents fun _ => True where
  host := fun _ _ _ h => h
  reset := fun _ h => h
  start := fun _ _ _ h => h
  symbol := fun _ _ _ _ h => h
  close := fun _ h => h

theorem exists_step_next (s : State) : ∃ t, step s = .next t := by
  obtain ⟨t, ht, -⟩ := kept_true.step_next (s := s) trivial
  exact ⟨t, ht⟩

theorem step_of_nextInput {s t : State} {item : HostInput} (h : nextInput s = (item, t)) (hr : isReset item = false) :
    step s = exec (decodeInput item) t := by
  unfold step
  rw [h]
  exact if_neg (by simp [hr])

/-! START (R162, R163). -/

theorem exec_startInstr (op : Operation) (arg : BitVec 16) (s : State) :
    exec (startInstr op arg) s = .next (openTransaction op arg s) := by
  cases op <;> rfl

/-- A START reads PBUF and the host's lists of the state before it, and no register (R163). -/
theorem openTransaction_eq (op : Operation) (arg : BitVec 16) (s : State) :
    openTransaction op arg s = { State.reset with
      phase := .run, opQ := op, argQ := arg, pbuf := s.pbuf, input := s.input, readings := s.readings } := rfl

/-! What an event word does (R161 to R167). -/

/-- Everything an event word can do: nothing, a START, a symbol, or an END. -/
theorem exec_event_cases {w : EventWord} {s t : State} (h : exec (decodeEvent w) s = .next t) :
    t = s ∨ (∃ op arg, t = openTransaction op arg s) ∨ (∃ c, t = symEvent c s) ∨
      (decodeEvent w = .endTx ∧ t = endEvent s) := by
  unfold decodeEvent at h ⊢
  split_ifs at h ⊢
  · cases h
    exact .inl rfl
  · obtain ⟨op, hop⟩ := exec_decodeStart (w.extractLsb' 24 2) (w.extractLsb' 8 16) s
    rw [hop] at h
    cases h
    exact .inr (.inl ⟨op, _, rfl⟩)
  · cases h
    exact .inr (.inr (.inl ⟨_, rfl⟩))
  · cases h
    exact .inr (.inr (.inr ⟨rfl, rfl⟩))

/-- Every cause but the domain error's is published as MALFORMED (R181, R182). -/
theorem errorCode_of_ne_domain {c : Cause} (h : c ≠ .domain) : errorCode c = 1 := by
  cases c with
  | domain => exact absurd rfl h
  | _ => rfl

/-- After an END with an error code, the END was dropped, or it was DECODE's with rc 1 or DERIVECHK's with rc 2 (R167, R181). -/
theorem endEvent_of_rc_ne_zero {s : State} (h : (endEvent s).rc ≠ 0) :
    endEvent s = s ∨
      (s.phase = .run ∧ ((s.opQ = .decode ∧ (endEvent s).rc = 1) ∨ (s.opQ = .deriveChk ∧ (endEvent s).rc = 2))) := by
  rcases endEvent_cases s with ⟨he, -⟩ | ⟨c, he, hp, ho, hm⟩ | ⟨he, -⟩ | ⟨he, -⟩ | ⟨he, hp, ho, -⟩ | ⟨he, -⟩ | ⟨he, -⟩
  case inl => exact .inl he
  case inr.inl =>
    have hdomain : c ≠ .domain := fun hc => malformedCause_ne_domain s (hc ▸ hm)
    exact .inr ⟨hp, .inl ⟨ho, by rw [he, publishError_rc, errorCode_of_ne_domain hdomain]⟩⟩
  case inr.inr.inr.inr.inl => exact .inr ⟨hp, .inr ⟨ho, by rw [he]; rfl⟩⟩
  all_goals exact absurd (by rw [he]; rfl) h

end Sys2Proof.Machine

namespace Sys2Proof.Safety

open Machine

/-- Settles O11: by induction on the number of steps, each of which ends in a next state. -/
theorem noRunStops : Obligations.NoRunStops := by
  intro k
  induction k with
  | zero => exact fun s => ⟨s, rfl⟩
  | succ k ih =>
    intro s
    obtain ⟨t, ht⟩ := exists_step_next s
    obtain ⟨u, hu⟩ := ih t
    exact ⟨u, (run_succ_of_next ht).trans hu⟩

/-- A CHAR row runs as a symbol of its code, whatever class and digit value the row brings (R165; log 7). -/
theorem exec_charRow (d : Byte) :
    ∀ row ∈ digitRows.map (fun r => (r.1, r.2.1)) ++ [(.charLf, 0x0A), (.charCr, 0x0D), (.charOther d, d)],
      ∃ cls v, ∀ s, exec row.1 s = .next (takeSymbol cls v row.2 s) := by
  intro row hrow
  rcases List.mem_append.mp hrow with hdigit | hother
  · obtain ⟨r, hr, rfl⟩ := List.mem_map.mp hdigit
    exact ⟨_, _, exec_digitRow r hr⟩
  · simp only [List.mem_cons, List.not_mem_nil, or_false] at hother
    rcases hother with rfl | rfl | rfl <;> exact ⟨_, _, fun _ => rfl⟩

/-- Settles O20: outside DECODE a symbol is dropped or added, whatever its class and digit value. -/
theorem characterRowsOutsideDecode : Obligations.CharacterRowsOutsideDecode := by
  intro d s row hrow
  obtain ⟨cls, v, hexec⟩ := exec_charRow d row hrow
  rw [hexec]
  refine ⟨fun hp => ?_, fun hp ho => ?_, fun hp ho => ?_⟩
  · rw [takeSymbol_idle hp]
  · rw [takeSymbol_derive hp ho]
  · rw [takeSymbol_adding hp ho, addByte]

/-- Settles O26: NOP and SYM keep the code and the cause, a START clears the code, and an END raises as R181 says. -/
theorem errorsOnlyAtEnd : Obligations.ErrorsOnlyAtEnd := by
  intro w s t h hrc hchanged
  rcases exec_event_cases h with rfl | ⟨op, arg, rfl⟩ | ⟨c, rfl⟩ | ⟨hend, rfl⟩
  · simp at hchanged
  · exact absurd rfl hrc
  · simp at hchanged
  · rcases endEvent_of_rc_ne_zero hrc with hsame | hraised
    · simp [hsame] at hchanged
    · exact ⟨hend, hraised⟩

/-- Settles O8: the item taken is the list's first. -/
theorem stepRunsDecodedInstruction : Obligations.StepRunsDecodedInstruction :=
  fun _ _ _ hin hr => step_of_nextInput (nextInput_of_cons hin) hr

/-- Settles O10: the ports of an empty list are decoded as NOP. -/
theorem idlePortIsNop : Obligations.IdlePortIsNop :=
  fun _ hin => step_of_nextInput (nextInput_of_nil hin) rfl

/-- Settles O14: NOPs among event words make no difference to their run, so a run of NOPs alone is the run of no word. -/
theorem nopChangesNothing : Obligations.NopChangesNothing := by
  refine ⟨decodeEvent_nopWord, exec_nop, fun k s => ?_⟩
  have hnops : RunsTo (List.replicate k nopWord) s s := by
    apply RunsTo.of_filter_isActive
    rw [List.filter_replicate_of_neg (by decide)]
    exact .nil s
  simpa [wordEdges, nopWord] using hnops.run_eq

/-- Settles O15: the words are those of the four STARTs, and a START is `openTransaction`, which reads no register. -/
theorem startOpensFromCleared : Obligations.StartOpensFromCleared := by
  refine ⟨decodeEvent_start_ofNat .decode 0, decodeEvent_start_ofNat .sumBytes 0,
    fun arg => ⟨decodeEvent_start_ofNat .deriveChk arg, decodeEvent_start_ofNat .verify arg⟩, fun arg s p hp => ?_⟩
  have hstart : p.1 = startInstr p.2 arg := by
    simp only [List.mem_cons, List.not_mem_nil, or_false] at hp
    rcases hp with rfl | rfl | rfl | rfl <;> rfl
  rw [hstart, exec_startInstr, exec_startInstr, openTransaction_eq, openTransaction_eq]
  exact ⟨rfl, rfl⟩

/-- Settles O16: in IDLE a symbol and END are dropped. -/
theorem eventsOutsideATransaction : Obligations.EventsOutsideATransaction := by
  intro c s hp
  rw [exec_sym, execSym, symEvent, takeSymbol_idle hp, exec_endTx, execEndTx, endEvent_idle hp]
  exact ⟨rfl, rfl⟩

end Sys2Proof.Safety

/-! PROOF. Exceptions, after 60_exceptions.md: what an error publication leaves (R186), and a batch with failed frames in it (R190). -/

namespace Sys2Proof.Machine

/-- An END in RUN raises by the one publication: a cause of DECODE's own checks, or the domain error of DERIVECHK (R181 to R183). -/
theorem endEvent_raises {s : State} (hp : s.phase = .run) (hrc : (endEvent s).rc ≠ 0) :
    ∃ c, endEvent s = publishError c s ∧
      ((s.opQ = .decode ∧ c ≠ .domain) ∨ (s.opQ = .deriveChk ∧ 0xFF < s.argQ.toNat ∧ c = .domain)) := by
  rcases endEvent_cases s with ⟨-, hidle⟩ | ⟨c, he, -, ho, hm⟩ | ⟨he, -⟩ | ⟨he, -⟩ | ⟨he, -, ho, harg⟩ | ⟨he, -⟩ | ⟨he, -⟩
  case inl => exact absurd (hp.symm.trans hidle) (by decide)
  case inr.inl => exact ⟨c, he, .inl ⟨ho, fun hc => malformedCause_ne_domain s (hc ▸ hm)⟩⟩
  case inr.inr.inr.inr.inl => exact ⟨.domain, he, .inr ⟨ho, harg, rfl⟩⟩
  all_goals exact absurd (by rw [he]; rfl) hrc

/-- The causes of MALFORMED are numbered 1 to 5 (R182). -/
theorem causeCode_of_ne_domain {c : Cause} (h : c ≠ .domain) : 1 ≤ (causeCode c).toNat ∧ (causeCode c).toNat ≤ 5 := by
  cases c with
  | domain => exact absurd rfl h
  | _ => decide

theorem frameOk_publishError (c : Cause) (s : State) : (publishError c s).frameOk = false := by
  simp [State.frameOk]

theorem signalStrength_publishError (c : Cause) (s : State) : (publishError c s).signalStrength = 0 := negate9_zero

theorem reading_publishError (c : Cause) (s : State) : (publishError c s).reading = 0 := by
  rw [State.reading, frameOk_publishError]
  rfl

end Sys2Proof.Machine

namespace Sys2Proof.Safety

open Machine

theorem publishError_eq_failed (c : Cause) (s : State) : publishError c s = failed (errorCode c) (causeCode c) s := rfl

/-- Settles O25: an END that raises is `publishError` of its cause, whose codes are those of R181 to R183. -/
theorem errorPublication : Obligations.ErrorPublication := by
  intro s t hp hexec hrc
  cases hexec
  obtain ⟨c, he, hcause⟩ := endEvent_raises hp hrc
  rw [he]
  refine ⟨publishError_eq_failed c s, ?_, frameOk_publishError c s, signalStrength_publishError c s, reading_publishError c s⟩
  rcases hcause with ⟨ho, hc⟩ | ⟨ho, harg, rfl⟩
  · exact .inl ⟨ho, errorCode_of_ne_domain hc, causeCode_of_ne_domain hc⟩
  · exact .inr ⟨ho, harg, rfl, rfl⟩

/-- A state that still has `items` to take is one with the host presenting them. -/
theorem eq_presenting_of_input {items rest : List HostInput} {t : State} (h : t.input = items ++ rest) :
    t = presenting items { t with input := rest } := by
  rw [presenting, ← h]

/-- Settles O35: by induction on the texts. A CHECK adds its own text's reading from any state, so what the text before it left does
not matter. -/
theorem batchReadings : Obligations.BatchReadings := by
  intro texts
  induction texts with
  | nil => exact fun s => ⟨s, rfl, (List.append_nil _).symm, rfl⟩
  | cons text rest ih =>
    intro s
    obtain ⟨u, hexec, -, -, hreadings, -, -, -, hinput, -⟩ := checkTakesReading text (presenting (rest.map .check) s)
    obtain ⟨t, hrun, hrest, hin⟩ := ih { u with input := s.input }
    rw [← eq_presenting_of_input hinput] at hrun
    have hfirst := run_presenting_cons (item := .check text) rfl (rest.map .check) s u hexec
    simp only [List.length_cons, List.length_map] at hfirst
    refine ⟨t, hfirst.trans hrun, ?_, hin⟩
    calc t.readings
      _ = u.readings ++ rest.map Functional.readingOf := hrest
      _ = (s.readings ++ [Functional.readingOf text]) ++ rest.map Functional.readingOf := by rw [hreadings]; rfl
      _ = s.readings ++ (text :: rest).map Functional.readingOf := by rw [List.append_assoc]; rfl

end Sys2Proof.Safety

/-! PROOF. Reset, after 70_reset_and_hazards.md: the exact next state of the reset step (R210). -/

namespace Sys2Proof.Machine

/-- A reset reads PBUF and the host's lists of the state before it, and no register (R210). -/
theorem resetStep_eq (s : State) :
    resetStep s = { State.reset with pbuf := s.pbuf, input := s.input, readings := s.readings } := rfl

end Sys2Proof.Machine

namespace Sys2Proof.Safety

open Machine

/-- Settles O9: the reset step is taken whatever the phase and the event inputs, and it keeps PBUF and the host's lists alone. -/
theorem resetStep : Obligations.ResetStep := by
  intro s p rest hin hr
  rw [step_of_rst hin hr, resetStep_eq]

end Sys2Proof.Safety
